-- ==== Sys2Proof/Word.lean ====
section
/-! DEFINITION. Word.lean: the bit-vector types the spec counts in (spec/00_scope.md R8, R9; 30_encoding.md R70, R82). -/

namespace Sys2Proof

/-- A 32-bit host word: a command word or a register of the window (10_state R21, 30_encoding R70). -/
abbrev Word := BitVec 32

/-- Eight bits: a column byte of the framebuffer, or the byte of a wire frame (00_scope R7). -/
abbrev Byte := BitVec 8

/-- A wire frame written as the 9-bit value with DC in bit 8 and the byte below it (30_encoding R82). -/
abbrev FrameBits := BitVec 9

end Sys2Proof
end

