-- ==== Sys2Proof/Config.lean ====
section
/-! DEFINITION. Config.lean: the parameters the spec leaves open (spec/00_scope.md R8, 93_implementation_defined.md U1 to U6) and the free values. -/

namespace Sys2Proof

/-- How an 8-bit contrast request becomes 7 bits (R8, R122, D9). -/
inductive ContrastMode where
  | clamp
  | mask
  deriving DecidableEq, Repr

/-- The open durations of R8 and R285, by name; no rule of the model reads one (R106, R290). -/
inductive Duration where
  | setup
  | sclkLow
  | sclkHigh
  | hold
  | gap
  | rstLow
  | rstRecover
  | clear
  deriving DecidableEq, Repr

/-- The parameters that rules do read. The machine carries them as constant data (`State.par`), so a statement
about every state is a statement about every choice of them (log 1). -/
structure Params where
  /-- `CONTRAST_MODE` (R8, R122). -/
  contrastMode : ContrastMode
  /-- `BIAS`, the 3-bit bias value INIT sends (R8, R121). -/
  bias : BitVec 3
  /-- `FBWP_BASE`, the register window's base in the host's address space (R8, R57). -/
  base : Nat
  deriving DecidableEq, Repr

/-- The spec's default parameters: CLAMP (D9) and BIAS 4 (D11); for the base the spec gives none (OPEN), and the
DESIGN CHOICE here is 0 (log 2, 3). -/
def Params.defaults : Params := { contrastMode := .clamp, bias := 4#3, base := 0 }

/-- `FBWP_BASE` must be 16-byte aligned (R57). -/
def Params.wf (p : Params) : Bool := p.base % 16 == 0

namespace Config

/-- FREE VALUE `FB_INIT`: byte `i` of the framebuffer after block reset number `draw`, one unconstrained draw per
byte and per block reset (R29, R35, R270, U1, D18; log 4). -/
opaque fbInit (draw i : Nat) : Byte

/-- FREE VALUE: by how much each duration exceeds one unit (R8: "durations > 0", OPEN; log 20). -/
opaque slack : Duration → Nat

/-- A duration, above zero and otherwise unconstrained (R8, R106, D17, D32; log 20). -/
def duration (t : Duration) : Nat := slack t + 1

end Config

end Sys2Proof
end

