-- ==== Sys2Proof/Syntax.lean ====
section
/-! DEFINITION. Syntax.lean: the two instruction spaces of spec/opcode_table.json as one inductive, the two forms of
encoded instruction, and the assembler's lines (spec/30_encoding.md R70 to R88). -/

namespace Sys2Proof

/-- The mode-select of a wire frame: command (DC low) or data (DC high) (R82, R104). -/
inductive Mode where
  | cmd
  | data
  deriving DecidableEq, Repr

/-- A pixel colour: `black` is ON, 1; `white` is OFF, 0 (R12, R77). -/
inductive Color where
  | white
  | black
  deriving DecidableEq, Repr

/-- One constructor per row of spec/opcode_table.json: the eight host command words (R71) and the eight wire frames as
the controller takes them (R83, 44_wire_commands). -/
inductive Instr where
  /-- INIT, format HI (R72, R120). -/
  | init (cval : Byte)
  /-- SEND, format HS (R73, R104). -/
  | send (m : Mode) (v : Byte)
  /-- SETADDR, format HA (R74, R125). -/
  | setaddr (col : BitVec 7) (bank : BitVec 3)
  /-- WRITE, format HW (R75, R128). -/
  | write (v : Byte)
  /-- FLUSH, format HZ (R76, R180). -/
  | flush
  /-- CLEAR, format HZ (R76, R150). -/
  | clear
  /-- SETPX, format HP; the coordinates are the sign-extended operands of R78 (R77, R152). -/
  | setpx (c : Color) (x y : Int)
  /-- GETPX, format HP (R77, R160). -/
  | getpx (x y : Int)
  /-- FSET, function-set (R83, R203). -/
  | fset (pd v h : Bool)
  /-- DCTL, display-control (R83, R204). -/
  | dctl (d e : Bool)
  /-- YADDR, Y-address (R83, R205). -/
  | yaddr (bank : BitVec 3)
  /-- XADDR, X-address (R83, R206). -/
  | xaddr (col : BitVec 7)
  /-- TEMPCO, temperature-coefficient (R83, R207). -/
  | tempco (tc : BitVec 2)
  /-- BIAS (R83, R208). -/
  | bias (bs : BitVec 3)
  /-- VOP, contrast (R83, R209). -/
  | vop (v : BitVec 7)
  /-- DATA, a data frame (R82, R210). -/
  | data (d : Byte)
  deriving DecidableEq, Repr

/-- An encoded instruction: a 32-bit host command word, or a 9-bit wire frame (R70, R82). -/
inductive Code where
  | host (w : Word)
  | frame (f : FrameBits)
  deriving DecidableEq, Repr

/-- Why a word or frame is no instruction. -/
inductive Reject where
  /-- A host word whose OP is 0x0 or 0x9..0xF (R79). -/
  | reservedOp
  /-- A host word with a 1 in a must-be-zero bit of its format (R79). -/
  | mustBeZero
  /-- A command frame whose byte matches no pattern of the current command set (R85, R213). -/
  | noPattern
  deriving DecidableEq, Repr

/-- The four display modes of the `dispmode` pseudo-instruction (R87). -/
inductive DispMode where
  | blank
  | normal
  | allon
  | inverse
  deriving DecidableEq, Repr

/-- A line of the assembler (R86) or a pseudo-instruction (R87), its numbers not yet range-checked. -/
inductive AsmLine where
  | init (cval : Int)
  | send (m : Mode) (b : Int)
  | setaddr (col bank : Int)
  | write (b : Int)
  | flush
  | clear
  | setpx (x y : Int) (c : Color)
  | getpx (x y : Int)
  | sendcmd (b : Int)
  | senddata (b : Int)
  | home
  | extended
  | basic
  | dispmode (d : DispMode)
  | tempco (t : Int)
  | setbias (b : Int)
  | setvop (v : Int)
  | px (x y : Int)
  deriving DecidableEq, Repr

end Sys2Proof
end

