-- ==== Sys2Proof/WellFormed.lean ====
section
/-! DEFINITION. WellFormed.lean: which terms of `Instr` an encoding exists for, and in which command set of the
controller a wire frame means what its constructor says (spec/30_encoding.md R77, R83). -/

namespace Sys2Proof

/-- A coordinate the 12-bit two's-complement field holds: -2048..2047 (R77). -/
def coordFits (x : Int) : Bool := decide (-2048 ≤ x) && decide (x ≤ 2047)

/-- Every operand fits its field. All operands but the coordinates have their field's width as their type. -/
def Instr.wellFormed : Instr → Bool
  | .setpx _ x y => coordFits x && coordFits y
  | .getpx x y => coordFits x && coordFits y
  | .init _ => true
  | .send _ _ => true
  | .setaddr _ _ => true
  | .write _ => true
  | .flush => true
  | .clear => true
  | .fset _ _ _ => true
  | .dctl _ _ => true
  | .yaddr _ => true
  | .xaddr _ => true
  | .tempco _ => true
  | .bias _ => true
  | .vop _ => true
  | .data _ => true

/-- Is this one of the eight host commands (R71)? -/
def Instr.isHost : Instr → Bool
  | .init _ => true
  | .send _ _ => true
  | .setaddr _ _ => true
  | .write _ => true
  | .flush => true
  | .clear => true
  | .setpx _ _ _ => true
  | .getpx _ _ => true
  | .fset _ _ _ => false
  | .dctl _ _ => false
  | .yaddr _ => false
  | .xaddr _ => false
  | .tempco _ => false
  | .bias _ => false
  | .vop _ => false
  | .data _ => false

/-- The command set a wire frame's constructor belongs to, `h` being the controller's extended bit (R83's last
column); host words do not depend on it (R70: no mode bits change decoding). -/
def Instr.definedIn (h : Bool) : Instr → Bool
  | .dctl _ _ => !h
  | .yaddr _ => !h
  | .xaddr _ => !h
  | .tempco _ => h
  | .bias _ => h
  | .vop _ => h
  | .fset _ _ _ => true
  | .data _ => true
  | .init _ => true
  | .send _ _ => true
  | .setaddr _ _ => true
  | .write _ => true
  | .flush => true
  | .clear => true
  | .setpx _ _ _ => true
  | .getpx _ _ => true

end Sys2Proof
end

