-- ==== Sys2Proof/Decode.lean ====
section
/-! DEFINITION. Decode.lean: the host-word decoder (spec/30_encoding.md R80), the wire-frame decoder in the two command
sets (R83, 44_wire_commands.md R201 to R213), and the encoder of both. -/

namespace Sys2Proof

/-- Bit C of SETPX: 1 is BLACK (R77). -/
def Color.ofBit (b : Bool) : Color := if b then .black else .white

/-- The bit a colour stands for (R77, R152). -/
def Color.bit : Color → Bool
  | .white => false
  | .black => true

/-- Bit M of SEND: 1 is DATA (R73). -/
def Mode.ofBit (b : Bool) : Mode := if b then .data else .cmd

/-- The level of DC during a frame of this mode (R82, R101). -/
def Mode.bit : Mode → Bool
  | .cmd => false
  | .data => true

/-- `OP = w[31:28]` (R70). -/
def opField (w : Word) : Nat := (w.extractLsb' 28 4).toNat

/-- Format HI (R72, R80). -/
def decodeInit (w : Word) : Except Reject Instr :=
  if w.extractLsb' 8 20 = 0#20 then .ok (.init (w.extractLsb' 0 8)) else .error .mustBeZero

/-- Format HS (R73, R80). -/
def decodeSend (w : Word) : Except Reject Instr :=
  if w.extractLsb' 9 19 = 0#19 then .ok (.send (Mode.ofBit (w.getLsbD 8)) (w.extractLsb' 0 8)) else .error .mustBeZero

/-- Format HA (R74, R80). -/
def decodeSetaddr (w : Word) : Except Reject Instr :=
  if w.extractLsb' 15 13 = 0#13 ∧ w.extractLsb' 3 5 = 0#5 then .ok (.setaddr (w.extractLsb' 8 7) (w.extractLsb' 0 3))
  else .error .mustBeZero

/-- Format HW (R75, R80). -/
def decodeWrite (w : Word) : Except Reject Instr :=
  if w.extractLsb' 8 20 = 0#20 then .ok (.write (w.extractLsb' 0 8)) else .error .mustBeZero

/-- Format HZ of FLUSH (R76, R80). -/
def decodeFlush (w : Word) : Except Reject Instr :=
  if w.extractLsb' 0 28 = 0#28 then .ok .flush else .error .mustBeZero

/-- Format HZ of CLEAR (R76, R80). -/
def decodeClear (w : Word) : Except Reject Instr :=
  if w.extractLsb' 0 28 = 0#28 then .ok .clear else .error .mustBeZero

/-- Format HP of SETPX, the coordinates sign-extended (R77, R78, R80). -/
def decodeSetpx (w : Word) : Except Reject Instr :=
  if w.extractLsb' 25 3 = 0#3 then
    .ok (.setpx (Color.ofBit (w.getLsbD 24)) (w.extractLsb' 12 12).toInt (w.extractLsb' 0 12).toInt)
  else .error .mustBeZero

/-- Format HP of GETPX, the coordinates sign-extended (R77, R78, R80). -/
def decodeGetpx (w : Word) : Except Reject Instr :=
  if w.extractLsb' 24 4 = 0#4 then .ok (.getpx (w.extractLsb' 12 12).toInt (w.extractLsb' 0 12).toInt)
  else .error .mustBeZero

/-- The decoder of host command words, total on every 32-bit word; every word it refuses is ILLEGAL (R71, R79, R80). -/
def decodeHost (w : Word) : Except Reject Instr :=
  match opField w with
  | 1 => decodeInit w
  | 2 => decodeSend w
  | 3 => decodeSetaddr w
  | 4 => decodeWrite w
  | 5 => decodeFlush w
  | 6 => decodeClear w
  | 7 => decodeSetpx w
  | 8 => decodeGetpx w
  | _ => .error .reservedOp

/-- A command byte in the normal command set, H = 0 (R203 to R206, R213). -/
def decodeNormal (b : Byte) : Except Reject Instr :=
  if b.extractLsb' 3 5 = 0b00100#5 then .ok (.fset (b.getLsbD 2) (b.getLsbD 1) (b.getLsbD 0))
  else if b.getLsbD 7 then .ok (.xaddr (b.extractLsb' 0 7))
  else if b.extractLsb' 3 5 = 0b01000#5 then .ok (.yaddr (b.extractLsb' 0 3))
  else if b.extractLsb' 3 5 = 0b00001#5 ∧ b.getLsbD 1 = false then .ok (.dctl (b.getLsbD 2) (b.getLsbD 0))
  else .error .noPattern

/-- A command byte in the extended command set, H = 1 (R203, R207 to R209, R213). -/
def decodeExtended (b : Byte) : Except Reject Instr :=
  if b.extractLsb' 3 5 = 0b00100#5 then .ok (.fset (b.getLsbD 2) (b.getLsbD 1) (b.getLsbD 0))
  else if b.getLsbD 7 then .ok (.vop (b.extractLsb' 0 7))
  else if b.extractLsb' 3 5 = 0b00010#5 then .ok (.bias (b.extractLsb' 0 3))
  else if b.extractLsb' 2 6 = 0b000001#6 then .ok (.tempco (b.extractLsb' 0 2))
  else .error .noPattern

/-- The decoder of wire frames; `h` is the controller's extended bit (R201). A data frame is one in both sets (R210). -/
def decodeFrame (h : Bool) (f : FrameBits) : Except Reject Instr :=
  if f.getLsbD 8 then .ok (.data (f.extractLsb' 0 8))
  else if h then decodeExtended (f.extractLsb' 0 8)
  else decodeNormal (f.extractLsb' 0 8)

/-- The instruction of an encoded one; `h` is the controller's extended bit, which a host word does not look at. -/
def decode (h : Bool) : Code → Except Reject Instr
  | .host w => decodeHost w
  | .frame f => decodeFrame h f

/-- The wire frame `{DC, b}` as the 9-bit value of R82. -/
def frameBits (m : Mode) (b : Byte) : FrameBits := BitVec.ofBool m.bit ++ b

/-- The encoding of each instruction, field by field as the formats of R72 to R77 and the patterns of R83 and
spec/opcode_table.json draw it. -/
def encode : Instr → Code
  | .init c => .host (0x1#4 ++ 0#20 ++ c)
  | .send m v => .host (0x2#4 ++ 0#19 ++ BitVec.ofBool m.bit ++ v)
  | .setaddr col bank => .host (0x3#4 ++ 0#13 ++ col ++ 0#5 ++ bank)
  | .write v => .host (0x4#4 ++ 0#20 ++ v)
  | .flush => .host (0x5#4 ++ 0#28)
  | .clear => .host (0x6#4 ++ 0#28)
  | .setpx c x y => .host (0x7#4 ++ 0#3 ++ BitVec.ofBool c.bit ++ BitVec.ofInt 12 x ++ BitVec.ofInt 12 y)
  | .getpx x y => .host (0x8#4 ++ 0#4 ++ BitVec.ofInt 12 x ++ BitVec.ofInt 12 y)
  | .fset pd v h => .frame (0#1 ++ 0b00100#5 ++ BitVec.ofBool pd ++ BitVec.ofBool v ++ BitVec.ofBool h)
  | .dctl d e => .frame (0#1 ++ 0b00001#5 ++ BitVec.ofBool d ++ 0#1 ++ BitVec.ofBool e)
  | .yaddr bank => .frame (0#1 ++ 0b01000#5 ++ bank)
  | .xaddr col => .frame (0#1 ++ 1#1 ++ col)
  | .tempco tc => .frame (0#1 ++ 0b000001#6 ++ tc)
  | .bias bs => .frame (0#1 ++ 0b00010#5 ++ bs)
  | .vop v => .frame (0#1 ++ 1#1 ++ v)
  | .data d => .frame (1#1 ++ d)

/-- The command word that CUR holds while this host command executes (R28); a wire frame is never in CUR. -/
def hostWord (i : Instr) : Word :=
  match encode i with
  | .host w => w
  | .frame _ => 0#32

/-- A wire frame of the opcode table read without the controller's state: in the normal set where it has a meaning
there, else in the extended set. The rows XADDR and VOP share their words (90_conflicts C4): such a word reads as
XADDR here (log 12). -/
def decodeFrameEither (f : FrameBits) : Except Reject (Bool × Instr) :=
  match decodeFrame false f with
  | .ok i => .ok (false, i)
  | .error _ =>
    match decodeFrame true f with
    | .ok i => .ok (true, i)
    | .error r => .error r

/-- The opcode table's two spaces by their width: 32 bits are a host command word, and up to 16 bits (the 9 bits of a
wire frame in whole bytes) a wire frame. -/
def tableCode (nbits w : Nat) : Option Code :=
  if nbits = 32 then (if w < 2 ^ 32 then some (.host (BitVec.ofNat 32 w)) else none)
  else if 9 ≤ nbits ∧ nbits ≤ 16 then (if w < 2 ^ 9 then some (.frame (BitVec.ofNat 9 w)) else none)
  else none

/-- What the decoder reads from a word numbered as spec/opcode_table.json numbers it. -/
def decodeTableWord (nbits w : Nat) : Option Instr :=
  match tableCode nbits w with
  | some (.host v) => (decodeHost v).toOption
  | some (.frame f) => (decodeFrameEither f).toOption.map (·.2)
  | none => none

end Sys2Proof
end

