-- ==== Sys2Proof/Machine/State.lean ====
section
/-! DEFINITION. Machine/State.lean: the state of the block, the wire and the controller as plain data, and the state
after reset (spec/10_state.md R20 to R35, 44_wire_commands.md R200). -/

namespace Sys2Proof.Machine

/-- A byte memory: the bytes written, as (address, byte) pairs with addresses strictly rising; an unlisted address holds
no written byte. What it then reads as is said once for each memory: `State.fbRead` for the framebuffer (the free
value `FB_INIT`), `none` (unknown) for the controller's display memory (log 4, 5). -/
abbrev Memory := List Host.Cell

/-- STATUS, by its fields; the reserved bits 3 and 31:8 read 0 and are no state (R22). -/
structure Status where
  busy : Bool
  init : Bool
  fault : Bool
  cause : BitVec 4
  deriving DecidableEq, Repr

/-- The levels of the five output ports (R30). -/
structure Pins where
  sclk : Bool
  sdin : Bool
  dc : Bool
  sceN : Bool
  rstN : Bool
  deriving DecidableEq, Repr

/-- The names of the output ports (R30). -/
inductive Pin where
  | sclk
  | sdin
  | dc
  | sceN
  | rstN
  deriving DecidableEq, Repr

/-- What the wire carries to the controller, in order: complete frames, reset pulses (R214), and the two marks of a
block reset (R217, R215). -/
inductive WireEvent where
  /-- A complete wire frame (R10, R82). -/
  | frame (m : Mode) (b : Byte)
  /-- RST_N went low and came back high (R121, R202). -/
  | resetPulse
  /-- A frame that a block reset cut short: seen on the pins, in no frame list (R217, R272). -/
  | cut
  /-- A block reset: the controller's state is unknown to the block from here to the next reset pulse (R215, R273). -/
  | blockReset
  deriving DecidableEq, Repr

/-- The reference decoder's record (R200). DDRAM byte (bank, col) is at address `bank*84 + col`; an unlisted one is
unknown. -/
structure LcdRegs where
  h : Bool
  v : Bool
  pd : Bool
  d : Bool
  e : Bool
  x : Nat
  y : Nat
  vop : BitVec 7
  bs : BitVec 3
  tc : BitVec 2
  ddram : Memory
  deriving DecidableEq, Repr

/-- The controller as the reference decoder knows it: `UNDEF` or a record (R200). -/
inductive Lcd where
  | undef
  | known (r : LcdRegs)
  deriving DecidableEq, Repr

/-- What a command leaves for the host when it completes: nothing beyond STATUS.BUSY, GETPX's RDATA (R160, R24), or
INIT's CONTRAST and STATUS.INIT (R121). -/
inductive Finish where
  | plain
  | rdata (v : Word)
  | init (c : BitVec 7)
  deriving DecidableEq, Repr

/-- The single steps the pseudo-code of R101, R121 and the command rules is made of: one assignment, pin change or
wait each, but that the acceptance is one step (R23) and so is the completion (`done`; log 29). A block reset or a host access can fall between any two (R270, R61). -/
inductive Micro where
  /-- Acceptance: CUR takes the word, BUSY is set, and for INIT the INIT flag is cleared (R23, R27). -/
  | accept (w : Word) (clearInit : Bool)
  /-- `pin(P) <- v` (R10). -/
  | pin (p : Pin) (v : Bool)
  /-- `wait(t)` (R10). -/
  | wait (t : Duration)
  /-- `SHIFT <- b; BITCNT <- 0` (R101). -/
  | load (b : Byte)
  /-- `BITCNT <- BITCNT + 1` (R101). -/
  | count
  /-- The frame is appended to the wire trace (R101). -/
  | frameEnd (m : Mode) (b : Byte)
  /-- The reset pulse is seen by the controller (R121, R202). -/
  | pulseEnd
  /-- `SEQ_BANK <- bank; SEQ_COL <- col` (R181). -/
  | seqAt (bank col : Nat)
  /-- `FBWrite(i, b)` (R10). -/
  | store (i : Nat) (b : Byte)
  /-- Completion: what the command leaves for the host, and `STATUS.BUSY <- 0` (R23), at once, so that a host access
  during the command sees BUSY = 1 and none of it (R11, R22, R24, R124; log 29). -/
  | done (f : Finish)
  deriving DecidableEq, Repr

/-- A host bus access: an address of the host's space, a width in bits, and for a write its data (R21, R58). -/
inductive Access where
  | read (addr bits : Nat)
  | write (addr bits : Nat) (v : Word)
  deriving DecidableEq, Repr

/-- What the outside does to the block: a host access, or the platform's block reset (R6, R270). -/
inductive Act where
  | access (a : Access)
  | blockReset
  deriving DecidableEq, Repr

/-- When an outside action arrives: once the block is idle, or after `k` further micro-steps of the command that is
then running (at once if none is) (log 14). -/
inductive Arrival where
  | whenIdle
  | during (k : Nat)
  deriving DecidableEq, Repr

/-- An outside action and when it arrives. -/
structure Input where
  arrival : Arrival
  act : Act
  deriving DecidableEq, Repr

/-- The whole machine: the block's registers, framebuffer, pins and running command; the wire; the controller; and
the outside's actions. -/
structure State where
  /-- The parameters; no step changes them (R8; log 1). -/
  par : Params
  /-- STATUS (R22). -/
  status : Status
  /-- RDATA (R24). -/
  rdata : Word
  /-- CONTRAST (R25). -/
  contrast : Word
  /-- CUR, the executing command word (R28). That an idle block keeps the last accepted word here is the model's choice:
  R28 says nothing of CUR once the command has ended (log 28). -/
  cur : Word
  /-- SEQ_BANK (R28). -/
  seqBank : Nat
  /-- SEQ_COL (R28). -/
  seqCol : Nat
  /-- SHIFT (R28). -/
  shift : Byte
  /-- BITCNT (R28). -/
  bitcnt : Nat
  /-- FB: the framebuffer bytes written since block reset (R29, R50). -/
  fb : Memory
  /-- The model's own field: how many block resets there were, the index of the free value `FB_INIT` (log 4). -/
  draw : Nat
  /-- The output ports (R30). -/
  pins : Pins
  /-- The model's own field: what is left of the running command; empty when the block is idle (R23; log 14). -/
  todo : List Micro
  /-- A CMD write held by BUSY (R26, R63). -/
  held : Option Word
  /-- The model's own field: the outside's actions to come, oldest first (log 13). -/
  inbox : List Input
  /-- The model's own field: the values host reads returned, oldest first (log 18). -/
  replies : List Word
  /-- The part of the wire trace the controller has still to take, oldest first (R10; log 7). -/
  pending : List WireEvent
  /-- The part of the wire trace the controller has taken, oldest first (R214; log 7). -/
  heard : List WireEvent
  /-- The controller (R200). -/
  lcd : Lcd
  deriving DecidableEq, Repr

/-- Why the machine stops. The block's own two faults are recorded in STATUS and are next states, not this (R240). -/
inductive Fault where
  /-- Raised by `advance` (so by `step`) when BUSY = 1 and no command is in progress: a state the spec does not have
  and no run from reset reaches. Safe: nothing is claimed of such a state. -/
  | noCommandInProgress
  deriving DecidableEq, Repr

/-- Why the model has no step (R249). -/
inductive Refusal where
  /-- Raised by `exec` for an instruction without a meaning; no arm does. Safe. -/
  | notModelled (mnemonic : String)
  /-- Raised by `perform` for a host access that is not 32 bits wide (R60, R249, U12). Safe. -/
  | accessWidth
  /-- Raised by `perform` for a host access at an offset that is not 4-byte aligned (R60, R249, U12). Safe. -/
  | misaligned
  /-- Raised by `perform` for a host access outside the four registers (R249, U12). Safe. -/
  | outsideWindow
  deriving DecidableEq, Repr

/-- STATUS after a block reset (R35). -/
def Status.reset : Status := { busy := false, init := false, fault := false, cause := 0#4 }

/-- The pins after a block reset (R35). -/
def Pins.reset : Pins := { sclk := false, sdin := false, dc := false, sceN := true, rstN := true }

/-- The machine right after reset (R35, R270), with the spec's default parameters, nothing on the wire, the controller
not yet known (R215) and no outside action waiting. CUR is don't-care in R35 and 0 here (log 6). -/
def State.reset : State :=
  { par := Params.defaults
    status := Status.reset
    rdata := 0#32
    contrast := 0#32
    cur := 0#32
    seqBank := 0
    seqCol := 0
    shift := 0#8
    bitcnt := 0
    fb := []
    draw := 0
    pins := Pins.reset
    todo := []
    held := none
    inbox := []
    replies := []
    pending := []
    heard := []
    lcd := .undef }

end Sys2Proof.Machine
end

