-- ==== Sys2Proof/Machine/Flags.lean ====
section
/-! DEFINITION. Machine/Flags.lean: STATUS as a word, and the recording of a fault in it (spec/10_state.md R22,
60_exceptions.md R241, R242). -/

namespace Sys2Proof.Machine

/-- The two fault causes (R241). -/
inductive Cause where
  | illegalCmd
  | notInitialized
  deriving DecidableEq, Repr

/-- The cause's code in STATUS.CAUSE (R241). -/
def Cause.code : Cause → BitVec 4
  | .illegalCmd => 1#4
  | .notInitialized => 2#4

/-- `raise Fault(cause)` on STATUS: FAULT is set, and CAUSE keeps the first fault's code (R242). -/
def Status.record (c : Cause) (st : Status) : Status :=
  { st with fault := true, cause := if st.cause = 0#4 then c.code else st.cause }

/-- STATUS as the host reads it: BUSY 0, INIT 1, FAULT 2, CAUSE 7:4, all other bits 0 (R22). -/
def Status.word (st : Status) : Word :=
  0#24 ++ st.cause ++ 0#1 ++ BitVec.ofBool st.fault ++ BitVec.ofBool st.init ++ BitVec.ofBool st.busy

end Sys2Proof.Machine
end

