-- ==== Sys2Proof/Machine/Operands.lean ====
section
/-! DEFINITION. Machine/Operands.lean: what the commands compute from their operands: the contrast reduction, the bounds
test, the pixel's place, and the wire bytes the block builds (spec/30_encoding.md R84, 41 R122, 42 R152, R153). -/

namespace Sys2Proof.Machine

/-- `contrast7(CVAL)`: clamp to 127 or mask to seven bits (R122). -/
def contrast7 (mode : ContrastMode) (cval : Byte) : BitVec 7 :=
  match mode with
  | .clamp => if cval.toNat ≤ 127 then cval.extractLsb' 0 7 else 127#7
  | .mask => cval.extractLsb' 0 7

/-- `inBounds(x, y)`, over signed integers (R153). -/
def inBounds (x y : Int) : Bool := decide (0 ≤ x) && decide (x < 84) && decide (0 ≤ y) && decide (y < 48)

/-- `index(bank, col)`, bank-major (R50). -/
def fbIndex (bank col : Nat) : Nat := bank * 84 + col

/-- The framebuffer byte that holds pixel (x, y) (R51). -/
def pixelIndex (x y : Nat) : Nat := fbIndex (y / 8) x

/-- `X_ADDR(col)` (R84). -/
def xAddrByte (col : BitVec 7) : Byte := 0x80#8 ||| col.setWidth 8

/-- `Y_ADDR(bank)` (R84). -/
def yAddrByte (bank : BitVec 3) : Byte := 0x40#8 ||| bank.setWidth 8

/-- `VOP(c7)` (R84). -/
def vopByte (c7 : BitVec 7) : Byte := 0x80#8 ||| c7.setWidth 8

/-- `BIAS_CMD(bs)` (R84). -/
def biasByte (bs : BitVec 3) : Byte := 0x10#8 ||| bs.setWidth 8

/-- `FSET(pd, v, h)` (R84). -/
def fsetByte (pd v h : Bool) : Byte :=
  0x20#8 ||| ((BitVec.ofBool pd).setWidth 8 <<< 2) ||| ((BitVec.ofBool v).setWidth 8 <<< 1) ||| (BitVec.ofBool h).setWidth 8

/-- `DCTL(d, e)` (R84). -/
def dctlByte (d e : Bool) : Byte :=
  0x08#8 ||| ((BitVec.ofBool d).setWidth 8 <<< 2) ||| (BitVec.ofBool e).setWidth 8

/-- A byte with bit `b` set directly to a colour: `(v & ~(1 << b) & 0xFF) | (C << b)` (R152). -/
def setLane (v : Byte) (b : Nat) (c : Color) : Byte :=
  (v &&& ~~~(1#8 <<< b)) ||| ((BitVec.ofBool c.bit).setWidth 8 <<< b)

/-- The SDIN values of one frame in time order, most significant bit first (R54, R102). -/
def bitsMsbFirst (b : Byte) : List Bool :=
  [b.getLsbD 7, b.getLsbD 6, b.getLsbD 5, b.getLsbD 4, b.getLsbD 3, b.getLsbD 2, b.getLsbD 1, b.getLsbD 0]

/-- The byte a receiver holds after shifting samples left, first sample as most significant (R102). -/
def byteOfSamples (bits : List Bool) : Byte :=
  bits.foldl (fun acc bit => (acc <<< 1) ||| (BitVec.ofBool bit).setWidth 8) 0#8

end Sys2Proof.Machine
end

