-- ==== Sys2Proof/Machine/Ops.lean ====
section
/-! DEFINITION. Machine/Ops.lean: the named operations every meaning is written over: byte memory, the framebuffer and
its pixels, the wire frame and the reset pulse, running a command, recording a fault, the block reset. -/

namespace Sys2Proof.Machine

/-- The byte written at an address, if any. -/
def Memory.read : Memory → Nat → Option Byte
  | [], _ => none
  | (k, b) :: rest, i => if k = i then some b else Memory.read rest i

/-- Writing a byte, in address order; every written byte is listed, for an unlisted address holds no known byte that
it could equal (log 5). -/
def Memory.write : Memory → Nat → Byte → Memory
  | [], i, v => [(i, v)]
  | (k, b) :: rest, i, v =>
    if i < k then (i, v) :: (k, b) :: rest
    else if i = k then (i, v) :: rest
    else (k, b) :: Memory.write rest i v

/-- Addresses rise strictly from `lo` and stay below `size`. -/
def Memory.wfFrom (lo size : Nat) : Memory → Bool
  | [] => true
  | (k, _) :: rest => decide (lo ≤ k) && decide (k < size) && Memory.wfFrom (k + 1) size rest

/-- The canonical form of a 504-byte memory (the framebuffer R50, and the controller's display memory R200). -/
def Memory.wf (m : Memory) : Bool := Memory.wfFrom 0 504 m

/-- `FBRead(i)` (R10). A byte nothing has written since the block reset is the free value `FB_INIT` (R29, R275). -/
def State.fbRead (s : State) (i : Nat) : Byte := (s.fb.read i).getD (Config.fbInit s.draw i)

/-- `pixel(x, y)` (R51). -/
def State.pixel (s : State) (x y : Nat) : Bool := (s.fbRead (pixelIndex x y)).getLsbD (y % 8)

/-- `pack(bank, col)`, the column bank encoder: lane `b` is pixel row `8*bank + b` (R170). -/
def State.pack (s : State) (bank col : Nat) : Byte :=
  (List.range 8).foldl (fun acc b => acc ||| ((BitVec.ofBool (s.pixel col (8 * bank + b))).setWidth 8 <<< b)) 0#8

/-- `pin(P) <- v` on the pins' levels (R10). -/
def Pins.set (p : Pins) : Pin → Bool → Pins
  | .sclk, v => { p with sclk := v }
  | .sdin, v => { p with sdin := v }
  | .dc, v => { p with dc := v }
  | .sceN, v => { p with sceN := v }
  | .rstN, v => { p with rstN := v }

/-- What completing a command writes, before BUSY falls (R121, R160). -/
def Finish.run : Finish → State → State
  | .plain, s => s
  | .rdata v, s => { s with rdata := v }
  | .init c, s => { s with contrast := c.setWidth 32, status := { s.status with init := true } }

/-- The effect of one micro-step. `done` does not write CUR: an idle block keeps the last word (log 28). -/
def Micro.run : Micro → State → State
  | .accept w clearInit, s =>
    { s with cur := w, status := { s.status with busy := true, init := s.status.init && !clearInit } }
  | .pin p v, s => { s with pins := s.pins.set p v }
  | .wait _, s => s
  | .load b, s => { s with shift := b, bitcnt := 0 }
  | .count, s => { s with bitcnt := s.bitcnt + 1 }
  | .frameEnd m b, s => { s with pending := s.pending ++ [.frame m b] }
  | .pulseEnd, s => { s with pending := s.pending ++ [.resetPulse] }
  | .seqAt bank col, s => { s with seqBank := bank, seqCol := col }
  | .store i b, s => { s with fb := s.fb.write i b }
  | .done f, s => { f.run s with status := { (f.run s).status with busy := false } }

/-- Micro-steps in order. -/
def runMicros (ms : List Micro) (s : State) : State := ms.foldl (fun t m => m.run t) s

/-- The steps a command's script is written in: a micro-step, a whole wire frame, or the controller's reset pulse. -/
inductive Action where
  | op (m : Micro)
  | emit (m : Mode) (b : Byte)
  | resetPulse
  deriving DecidableEq, Repr

/-- One bit of a frame: data set while SCLK is low, then the rising and the falling edge (R101). -/
def bitMicros (v : Bool) : List Micro :=
  [.pin .sdin v, .wait .sclkLow, .pin .sclk true, .wait .sclkHigh, .pin .sclk false, .count]

/-- The pin sequence of `emit(m, b)` (R101). -/
def emitMicros (m : Mode) (b : Byte) : List Micro :=
  [.pin .dc m.bit, .pin .sceN false, .wait .setup, .load b]
    ++ (bitsMsbFirst b).flatMap bitMicros
    ++ [.wait .hold, .pin .sceN true, .wait .gap, .frameEnd m b]

/-- The hardware reset pulse of INIT (R121); the controller is reset when RST_N is high again (R202). -/
def pulseMicros : List Micro :=
  [.pin .rstN false, .wait .rstLow, .pin .rstN true, .pulseEnd, .wait .rstRecover]

/-- An action as micro-steps: the pin level of R105. -/
def Action.micros : Action → List Micro
  | .op m => [m]
  | .emit m b => emitMicros m b
  | .resetPulse => pulseMicros

/-- A whole wire frame at the transaction level (R105): it is on the wire, and the pins, SHIFT and BITCNT are as its
pin sequence leaves them (R31). -/
def State.emit (m : Mode) (b : Byte) (s : State) : State :=
  { s with
    pins := { s.pins with sclk := false, sdin := b.getLsbD 0, dc := m.bit, sceN := true }
    shift := b
    bitcnt := 8
    pending := s.pending ++ [.frame m b] }

/-- The whole reset pulse at the transaction level (R121). -/
def State.pulse (s : State) : State :=
  { s with pins := { s.pins with rstN := true }, pending := s.pending ++ [.resetPulse] }

/-- An action as one transition. -/
def Action.run : Action → State → State
  | .op m, s => m.run s
  | .emit m b, s => s.emit m b
  | .resetPulse, s => s.pulse

/-- Actions in order: a whole command (R11). -/
def runActions (as : List Action) (s : State) : State := as.foldl (fun t a => a.run t) s

/-- A command's micro-steps: the refinement of its script (R11, R105). -/
def scriptMicros (as : List Action) : List Micro := as.flatMap Action.micros

/-- Taking a fault, the one operation for both causes: STATUS.FAULT and STATUS.CAUSE change and nothing else does
(R240, R242, R246); there is no return from it (R247). -/
def State.raiseFault (c : Cause) (s : State) : State := { s with status := s.status.record c }

/-- A command other than INIT: NOT_INITIALIZED while STATUS.INIT = 0, else its script (R27, R241, R244). -/
def State.command (script : List Action) (s : State) : Host.Outcome State Fault Refusal :=
  if s.status.init then .next (runActions script s) else .next (s.raiseFault .notInitialized)

/-- The block reset, at any time (R270 to R273): every piece of block state takes its value of R35, FB is a new draw of
`FB_INIT`, the running command and a held write are gone, a frame in progress is cut short, and the controller is
left alone but unknown (R215, R217; log 8, 9). The trace, the replies and the outside's actions are kept. -/
def State.blockReset (s : State) : State :=
  { State.reset with
    par := s.par
    draw := s.draw + 1
    inbox := s.inbox
    replies := s.replies
    pending := s.pending ++ (if s.pins.sceN then [] else [.cut]) ++ [.blockReset]
    heard := s.heard
    lcd := s.lcd }

/-- The whole wire trace, taken or still to be taken (R10, R214). -/
def State.trace (s : State) : List WireEvent := s.heard ++ s.pending

/-- The frame list of a trace: its frames in order, without pulses and marks (R11, R105). -/
def framesOf (es : List WireEvent) : List (Mode × Byte) :=
  es.filterMap fun e =>
    match e with
    | .frame m b => some (m, b)
    | .resetPulse => none
    | .cut => none
    | .blockReset => none

end Sys2Proof.Machine
end

