-- ==== Sys2Proof/Machine/Controller.lean ====
section
/-! DEFINITION. Machine/Controller.lean: the eight wire frames as the reference decoder takes them (spec/44_wire_commands.md
R200 to R213). -/

namespace Sys2Proof.Machine

/-- The controller's record after the reset pulse (R202). -/
def LcdRegs.afterReset : LcdRegs :=
  { h := false, v := false, pd := true, d := false, e := false, x := 0, y := 0,
    vop := 0#7, bs := 0#3, tc := 0#2, ddram := [] }

/-- Taking a frame that has a meaning: UNDEF absorbs every frame, and so does vertical addressing (R213). -/
def Lcd.take (f : LcdRegs → Lcd) : Lcd → Lcd
  | .undef => .undef
  | .known r => if r.v then .undef else f r

/-- Function-set, decoded in both sets (R203). -/
def Lcd.fset (pd v h : Bool) : Lcd → Lcd := Lcd.take fun r => .known { r with pd := pd, v := v, h := h }

/-- Display-control in the normal set; the extended set gives these bytes no meaning (R204, R213). -/
def Lcd.dctl (d e : Bool) : Lcd → Lcd :=
  Lcd.take fun r => if r.h then .undef else .known { r with d := d, e := e }

/-- The X-address, defined for columns 0..83 (R206, R213). -/
def LcdRegs.setX (r : LcdRegs) (col : BitVec 7) : Lcd :=
  if col.toNat < 84 then .known { r with x := col.toNat } else .undef

/-- The contrast (R209). -/
def LcdRegs.setVop (r : LcdRegs) (v : BitVec 7) : Lcd := .known { r with vop := v }

/-- Y-address in the normal set, defined for banks 0..5 (R205, R213). -/
def Lcd.yaddr (bank : BitVec 3) : Lcd → Lcd :=
  Lcd.take fun r => if r.h then .undef else if bank.toNat < 6 then .known { r with y := bank.toNat } else .undef

/-- The X-address frame: in the extended set the same byte is the contrast (R206, R83; log 11). -/
def Lcd.xaddr (col : BitVec 7) : Lcd → Lcd := Lcd.take fun r => if r.h then r.setVop col else r.setX col

/-- Temperature coefficient in the extended set (R207, R213). -/
def Lcd.tempco (tc : BitVec 2) : Lcd → Lcd :=
  Lcd.take fun r => if r.h then .known { r with tc := tc } else .undef

/-- Bias in the extended set (R208, R213). -/
def Lcd.bias (bs : BitVec 3) : Lcd → Lcd :=
  Lcd.take fun r => if r.h then .known { r with bs := bs } else .undef

/-- The contrast frame: in the normal set the same byte is the X-address (R209, R83; log 11). -/
def Lcd.vop (v : BitVec 7) : Lcd → Lcd := Lcd.take fun r => if r.h then r.setVop v else r.setX v

/-- The auto-increment: the column first, then the next bank, and from the last bank to the first (R211). -/
def LcdRegs.advance (r : LcdRegs) : LcdRegs :=
  if r.x + 1 = 84 then { r with x := 0, y := if r.y + 1 = 6 then 0 else r.y + 1 } else { r with x := r.x + 1 }

/-- A data frame: the byte goes to the display memory at the pointer, and the pointer advances (R210, R211). -/
def Lcd.data (b : Byte) : Lcd → Lcd :=
  Lcd.take fun r => .known { r with ddram := r.ddram.write (fbIndex r.y r.x) b }.advance

/-- FSET (R203). -/
def execFset (pd v h : Bool) (s : State) : Host.Outcome State Fault Refusal := .next { s with lcd := s.lcd.fset pd v h }

/-- DCTL (R204). -/
def execDctl (d e : Bool) (s : State) : Host.Outcome State Fault Refusal := .next { s with lcd := s.lcd.dctl d e }

/-- YADDR (R205). -/
def execYaddr (bank : BitVec 3) (s : State) : Host.Outcome State Fault Refusal := .next { s with lcd := s.lcd.yaddr bank }

/-- XADDR (R206). -/
def execXaddr (col : BitVec 7) (s : State) : Host.Outcome State Fault Refusal := .next { s with lcd := s.lcd.xaddr col }

/-- TEMPCO (R207). -/
def execTempco (tc : BitVec 2) (s : State) : Host.Outcome State Fault Refusal := .next { s with lcd := s.lcd.tempco tc }

/-- BIAS (R208). -/
def execBias (bs : BitVec 3) (s : State) : Host.Outcome State Fault Refusal := .next { s with lcd := s.lcd.bias bs }

/-- VOP (R209). -/
def execVop (v : BitVec 7) (s : State) : Host.Outcome State Fault Refusal := .next { s with lcd := s.lcd.vop v }

/-- DATA (R210). -/
def execData (d : Byte) (s : State) : Host.Outcome State Fault Refusal := .next { s with lcd := s.lcd.data d }

end Sys2Proof.Machine
end

