-- ==== Sys2Proof/Machine/DisplaySync.lean ====
section
/-! DEFINITION. Machine/DisplaySync.lean: FLUSH, the addressing sequencer's walk (spec/43_display_sync.md). -/

namespace Sys2Proof.Machine

/-- One stop of the walk: the sequencer's position and the data frame of that column byte (R181). -/
def flushColumn (s : State) (bank col : Nat) : List Action :=
  [.op (.seqAt bank col), .emit .data (s.pack bank col)]

/-- The walk: banks outside, columns inside, both ascending (R181). -/
def flushWalk (s : State) : List Action :=
  (List.range 6).flatMap fun bank => (List.range 84).flatMap fun col => flushColumn s bank col

/-- FLUSH's script: the address pair of (0, 0), the walk, and the sequencer back at its start (R181). The bytes are the
framebuffer's at acceptance, which no command can change before the end (R186; log 15). -/
def scriptFlush (s : State) : List Action :=
  [.op (.accept (hostWord .flush) false),
   .emit .cmd (xAddrByte 0#7),
   .emit .cmd (yAddrByte 0#3)]
    ++ flushWalk s
    ++ [.op (.seqAt 0 0), .op (.done .plain)]

/-- FLUSH (R180). -/
def execFlush (s : State) : Host.Outcome State Fault Refusal := s.command (scriptFlush s)

end Sys2Proof.Machine
end

