-- ==== Sys2Proof/Machine/FramebufferPort.lean ====
section
/-! DEFINITION. Machine/FramebufferPort.lean: CLEAR, SETPX, GETPX (spec/42_framebuffer.md). -/

namespace Sys2Proof.Machine

/-- CLEAR's script: FBWrite(i, 0x00) for i in 0..503 (R150). -/
def scriptClear : List Action :=
  [.op (.accept (hostWord .clear) false)]
    ++ (List.range 504).map (fun i => .op (.store i 0x00#8))
    ++ [.op (.done .plain)]

/-- CLEAR (R150). -/
def execClear (s : State) : Host.Outcome State Fault Refusal := s.command scriptClear

/-- SETPX's script: in bounds, the byte of the pixel with its bit set directly; out of bounds, nothing (R152). The byte
read is the one at acceptance: the read-modify-write is atomic (R61; log 15). -/
def scriptSetpx (c : Color) (x y : Int) (s : State) : List Action :=
  [.op (.accept (hostWord (.setpx c x y)) false)]
    ++ (if inBounds x y then
          [.op (.store (pixelIndex x.toNat y.toNat)
            (setLane (s.fbRead (pixelIndex x.toNat y.toNat)) (y.toNat % 8) c))]
        else [])
    ++ [.op (.done .plain)]

/-- SETPX (R152). -/
def execSetpx (c : Color) (x y : Int) (s : State) : Host.Outcome State Fault Refusal :=
  s.command (scriptSetpx c x y s)

/-- What GETPX puts into RDATA: the pixel in bounds, 0 outside (R160, R161). -/
def pixelWord (x y : Int) (s : State) : Word :=
  if inBounds x y then (BitVec.ofBool (s.pixel x.toNat y.toNat)).setWidth 32 else 0#32

/-- GETPX's script (R160). -/
def scriptGetpx (x y : Int) (s : State) : List Action :=
  [.op (.accept (hostWord (.getpx x y)) false), .op (.done (.rdata (pixelWord x y s)))]

/-- GETPX (R160). -/
def execGetpx (x y : Int) (s : State) : Host.Outcome State Fault Refusal := s.command (scriptGetpx x y s)

end Sys2Proof.Machine
end

