-- ==== Sys2Proof/Machine/Protocol.lean ====
section
/-! DEFINITION. Machine/Protocol.lean: INIT, SETADDR, WRITE (spec/41_controller_protocol.md). -/

namespace Sys2Proof.Machine

/-- INIT's script: the reset pulse, then the five command frames, in the order of R121, and at its completion CONTRAST,
INIT and BUSY (R22, R124; log 29). -/
def scriptInit (cval : Byte) (s : State) : List Action :=
  [.op (.accept (hostWord (.init cval)) true),
   .resetPulse,
   .emit .cmd (fsetByte false false true),
   .emit .cmd (biasByte s.par.bias),
   .emit .cmd (vopByte (contrast7 s.par.contrastMode cval)),
   .emit .cmd (fsetByte false false false),
   .emit .cmd (dctlByte true false),
   .op (.done (.init (contrast7 s.par.contrastMode cval)))]

/-- INIT, accepted whatever STATUS.INIT is (R120, R121, R124). -/
def execInit (cval : Byte) (s : State) : Host.Outcome State Fault Refusal := .next (runActions (scriptInit cval s) s)

/-- SETADDR's script: the X-address frame, then the Y-address frame, unchecked (R125 to R127). -/
def scriptSetaddr (col : BitVec 7) (bank : BitVec 3) : List Action :=
  [.op (.accept (hostWord (.setaddr col bank)) false),
   .emit .cmd (xAddrByte col),
   .emit .cmd (yAddrByte bank),
   .op (.done .plain)]

/-- SETADDR (R125). -/
def execSetaddr (col : BitVec 7) (bank : BitVec 3) (s : State) : Host.Outcome State Fault Refusal :=
  s.command (scriptSetaddr col bank)

/-- WRITE's script: one data frame (R128). -/
def scriptWrite (v : Byte) : List Action :=
  [.op (.accept (hostWord (.write v)) false), .emit .data v, .op (.done .plain)]

/-- WRITE (R128). -/
def execWrite (v : Byte) (s : State) : Host.Outcome State Fault Refusal := s.command (scriptWrite v)

end Sys2Proof.Machine
end

