-- ==== Sys2Proof/Machine/Transport.lean ====
section
/-! DEFINITION. Machine/Transport.lean: SEND (spec/40_bus_transport.md R104). -/

namespace Sys2Proof.Machine

/-- SEND's script: one raw frame, any byte in either mode (R104). -/
def scriptSend (m : Mode) (v : Byte) : List Action :=
  [.op (.accept (hostWord (.send m v)) false), .emit m v, .op (.done .plain)]

/-- SEND (R104). -/
def execSend (m : Mode) (v : Byte) (s : State) : Host.Outcome State Fault Refusal := s.command (scriptSend m v)

end Sys2Proof.Machine
end

