-- ==== Sys2Proof/Machine/Dispatch.lean ====
section
/-! DEFINITION. Machine/Dispatch.lean: the meaning of each row of spec/opcode_table.json, one arm per constructor. -/

namespace Sys2Proof.Machine

/-- One instruction: a host command word as a whole transaction (R11), or one wire frame as the controller takes it. -/
def exec (i : Instr) (s : State) : Host.Outcome State Fault Refusal :=
  match i with
  | .init cval => Sys2Proof.Machine.execInit cval s
  | .send m v => Sys2Proof.Machine.execSend m v s
  | .setaddr col bank => Sys2Proof.Machine.execSetaddr col bank s
  | .write v => Sys2Proof.Machine.execWrite v s
  | .flush => Sys2Proof.Machine.execFlush s
  | .clear => Sys2Proof.Machine.execClear s
  | .setpx c x y => Sys2Proof.Machine.execSetpx c x y s
  | .getpx x y => Sys2Proof.Machine.execGetpx x y s
  | .fset pd v h => Sys2Proof.Machine.execFset pd v h s
  | .dctl d e => Sys2Proof.Machine.execDctl d e s
  | .yaddr bank => Sys2Proof.Machine.execYaddr bank s
  | .xaddr col => Sys2Proof.Machine.execXaddr col s
  | .tempco tc => Sys2Proof.Machine.execTempco tc s
  | .bias bs => Sys2Proof.Machine.execBias bs s
  | .vop v => Sys2Proof.Machine.execVop v s
  | .data d => Sys2Proof.Machine.execData d s

end Sys2Proof.Machine
end

