-- ==== Sys2Proof/Machine/HostPort.lean ====
section
/-! DEFINITION. Machine/HostPort.lean: the register window, the acceptance of command words, the BUSY hold, and a
command that something from outside interrupts (spec/10_state.md R21 to R27, 20_memory.md R56 to R63, 70 R270 to R272). -/

namespace Sys2Proof.Machine

/-- The script of a host command at this state; a wire frame is no host command and has none. -/
def scriptOf : Instr → State → List Action
  | .init cval, s => scriptInit cval s
  | .send m v, _ => scriptSend m v
  | .setaddr col bank, _ => scriptSetaddr col bank
  | .write v, _ => scriptWrite v
  | .flush, s => scriptFlush s
  | .clear, _ => scriptClear
  | .setpx c x y, s => scriptSetpx c x y s
  | .getpx x y, s => scriptGetpx x y s
  | .fset _ _ _, _ => []
  | .dctl _ _, _ => []
  | .yaddr _, _ => []
  | .xaddr _, _ => []
  | .tempco _, _ => []
  | .bias _, _ => []
  | .vop _, _ => []
  | .data _, _ => []

/-- Does the block carry the command out in this state: INIT always, the others once STATUS.INIT = 1 (R27, R241)? -/
def accepts : Instr → State → Bool
  | .init _, _ => true
  | .send _ _, s => s.status.init
  | .setaddr _ _, s => s.status.init
  | .write _, s => s.status.init
  | .flush, s => s.status.init
  | .clear, s => s.status.init
  | .setpx _ _ _, s => s.status.init
  | .getpx _ _, s => s.status.init
  | .fset _ _ _, _ => false
  | .dctl _ _, _ => false
  | .yaddr _, _ => false
  | .xaddr _, _ => false
  | .tempco _, _ => false
  | .bias _, _ => false
  | .vop _, _ => false
  | .data _, _ => false

/-- Accepting a command that something will interrupt: the acceptance itself, with the rest of its micro-steps still to
do (R23, R27). A command that faults completes at once (R243). -/
def State.begin (i : Instr) (s : State) : State :=
  if accepts i s then
    { runMicros ((scriptMicros (scriptOf i s)).take 1) s with todo := (scriptMicros (scriptOf i s)).drop 1 }
  else s.raiseFault .notInitialized

/-- When the next outside action falls inside the command now running, if it does. While a CMD write is held the host
waits on it, and only a block reset can arrive (R26, R63; log 18). -/
def State.interruptAt (s : State) : Option Nat :=
  match s.inbox with
  | ⟨.during k, .blockReset⟩ :: _ => some k
  | ⟨.during k, .access _⟩ :: _ => if s.held.isNone then some k else none
  | ⟨.whenIdle, _⟩ :: _ => none
  | [] => none

/-- Accepting a command word: an illegal word records ILLEGAL_CMD, a legal one is executed as one transition, or begun
if something interrupts it (R26, R79, R244, R11). -/
def accept (w : Word) (s : State) : Host.Outcome State Fault Refusal :=
  match decodeHost w with
  | .error _ => .next (s.raiseFault .illegalCmd)
  | .ok i => if s.interruptAt.isSome then .next (s.begin i) else exec i s

/-- The register offset of an access: 32 bits wide, inside the window at FBWP_BASE, 4-byte aligned (R21, R57 to R60);
anything else is outside the interface (R249, U12; log 17). -/
def windowOffset (base addr bits : Nat) : Except Refusal Nat :=
  if bits ≠ 32 then .error .accessWidth
  else if addr < base ∨ base + 16 ≤ addr then .error .outsideWindow
  else if (addr - base) % 4 ≠ 0 then .error .misaligned
  else .ok (addr - base)

/-- What a host read returns: CMD reads 0 (R21, R26). -/
def State.readReg (s : State) (off : Nat) : Word :=
  match off with
  | 4 => s.status.word
  | 8 => s.rdata
  | 12 => s.contrast
  | _ => 0#32

/-- A host write of a register: CMD takes the word, at once if idle and held if BUSY; writes to the others are ignored
(R21, R26, R60, R63). -/
def State.writeReg (off : Nat) (v : Word) (s : State) : Host.Outcome State Fault Refusal :=
  if off = 0 then (if s.status.busy then .next { s with held := some v } else accept v s) else .next s

/-- An outside action, at once: a host access or the block reset (R6, R21, R270). -/
def perform (a : Act) (s : State) : Host.Outcome State Fault Refusal :=
  match a with
  | .blockReset => .next s.blockReset
  | .access (.read addr bits) =>
    match windowOffset s.par.base addr bits with
    | .error r => .refused r
    | .ok off => .next { s with replies := s.replies ++ [s.readReg off] }
  | .access (.write addr bits v) =>
    match windowOffset s.par.base addr bits with
    | .error r => .refused r
    | .ok off => s.writeReg off v

/-- The action has arrived at the head of the inbox. -/
def Input.now (i : Input) : Input := { i with arrival := .during 0 }

/-- Going on with the running command: to its end, or to the micro-step at which something from outside arrives, which
then has its turn (R61, R63, R271). -/
def advance (s : State) : Host.Outcome State Fault Refusal :=
  match s.todo with
  | [] => .fault .noCommandInProgress
  | _ :: _ =>
    match s.interruptAt with
    | none => .next { runMicros s.todo s with todo := [] }
    | some 0 =>
      match s.inbox with
      | [] => .fault .noCommandInProgress
      | i :: rest => perform i.act { s with inbox := rest }
    | some (k + 1) =>
      .next { runMicros (s.todo.take (k + 1)) s with
        todo := s.todo.drop (k + 1)
        inbox := s.inbox.head?.toList.map Input.now ++ s.inbox.tail }

/-- The controller takes one event of the wire (R214): a frame is decoded in its current command set and executed, or
has no meaning and leaves it UNDEF; a reset pulse, a cut frame and a block reset act as R202, R217 and R215 say. -/
def deliver (e : WireEvent) (s : State) : Host.Outcome State Fault Refusal :=
  match e with
  | .frame m b =>
    match s.lcd with
    | .undef => .next s
    | .known r =>
      match decodeFrame r.h (frameBits m b) with
      | .ok i => exec i s
      | .error _ => .next { s with lcd := .undef }
  | .resetPulse => .next { s with lcd := .known LcdRegs.afterReset }
  | .cut => .next { s with lcd := .undef }
  | .blockReset => .next { s with lcd := .undef }

/-- A host program: its words written to CMD, each when the block is idle (R26, R62, R274). -/
def programInputs (base : Nat) (ws : List Word) : List Input :=
  ws.map fun w => ⟨.whenIdle, .access (.write base 32 w)⟩

/-- An idle block with nothing on the wire and this one CMD write to come. -/
def State.offerHost (s : State) (w : Word) : State :=
  { s with
    status := { s.status with busy := false }
    todo := []
    held := none
    pending := []
    inbox := programInputs s.par.base [w] }

/-- This frame is the next thing on the wire, for a controller whose command set is `h`. -/
def State.offerFrame (s : State) (h : Bool) (f : FrameBits) : State :=
  { s with
    pending := .frame (Mode.ofBit (f.getLsbD 8)) (f.extractLsb' 0 8) :: s.pending
    lcd := .known (match s.lcd with
      | .undef => { LcdRegs.afterReset with h := h }
      | .known r => { r with h := h }) }

end Sys2Proof.Machine
end

