-- ==== Sys2Proof/Machine/Step.lean ====
section
/-! DEFINITION. Machine/Step.lean: one step of the whole machine, and how one instruction is placed where the next step
takes it (spec/00_scope.md R6, R11; log 7, 13). -/

namespace Sys2Proof.Machine

/-- One step. The controller takes what is on the wire; else the block goes on with its command; else it accepts a held
CMD write; else the outside's next action is taken; with nothing to do the machine stays as it is. -/
def step (s : State) : Host.Outcome State Fault Refusal :=
  match s.pending with
  | e :: rest => deliver e { s with pending := rest, heard := s.heard ++ [e] }
  | [] =>
    if s.status.busy then advance s
    else
      match s.held with
      | some w => accept w { s with held := none }
      | none =>
        match s.inbox with
        | [] => .next s
        | i :: rest => perform i.act { s with inbox := rest }

/-- `s` with the instruction of an opcode-table word placed so that the next step runs it: a host word as the CMD write
to come, a wire frame as the next thing on the wire, in the command set it is read in (log 12, 13). -/
def State.withFetchWord (s : State) (nbits w : Nat) : State :=
  match tableCode nbits w with
  | some (.host v) => s.offerHost v
  | some (.frame f) =>
    match decodeFrameEither f with
    | .ok (h, _) => s.offerFrame h f
    | .error _ => s.offerFrame false f
  | none => s

end Sys2Proof.Machine
end

