-- ==== Sys2Proof/Machine/Asm.lean ====
section
/-! DEFINITION. Machine/Asm.lean: the assembler of test programs: range checks, the pseudo-instructions' expansions, and
the text of a line (spec/30_encoding.md R86, R87). -/

namespace Sys2Proof

/-- An operand in 0..2^n-1, or the assembler rejects the line; it never wraps (R86). -/
def fieldOf (n : Nat) (v : Int) : Option (BitVec n) :=
  if 0 ≤ v ∧ v < 2 ^ n then some (BitVec.ofInt n v) else none

/-- A coordinate in -2048..2047, or the line is rejected (R86). -/
def coordOf (v : Int) : Option Int := if coordFits v then some v else none

/-- The display-control byte of a display mode (R87). -/
def DispMode.byte : DispMode → Byte
  | .blank => 0x08#8
  | .normal => 0x0C#8
  | .allon => 0x09#8
  | .inverse => 0x0D#8

/-- A line as its one host command; a pseudo-instruction by its expansion (R86, R87). -/
def AsmLine.instr : AsmLine → Option Instr
  | .init c => (fieldOf 8 c).map .init
  | .send m b => (fieldOf 8 b).map (.send m)
  | .setaddr c b => (fieldOf 7 c).bind fun col => (fieldOf 3 b).map fun bank => .setaddr col bank
  | .write b => (fieldOf 8 b).map .write
  | .flush => some .flush
  | .clear => some .clear
  | .setpx x y c => (coordOf x).bind fun x' => (coordOf y).map fun y' => .setpx c x' y'
  | .getpx x y => (coordOf x).bind fun x' => (coordOf y).map fun y' => .getpx x' y'
  | .sendcmd b => (fieldOf 8 b).map (.send .cmd)
  | .senddata b => (fieldOf 8 b).map (.send .data)
  | .home => some (.setaddr 0#7 0#3)
  | .extended => some (.send .cmd 0x21#8)
  | .basic => some (.send .cmd 0x20#8)
  | .dispmode d => some (.send .cmd d.byte)
  | .tempco t => (fieldOf 2 t).map fun tc => .send .cmd (0x04#8 ||| tc.setWidth 8)
  | .setbias b => (fieldOf 3 b).map fun bs => .send .cmd (0x10#8 ||| bs.setWidth 8)
  | .setvop v => (fieldOf 7 v).map fun c => .send .cmd (0x80#8 ||| c.setWidth 8)
  | .px x y => (coordOf x).bind fun x' => (coordOf y).map fun y' => .setpx .black x' y'

/-- A line as its command word. -/
def AsmLine.word (l : AsmLine) : Option Word := l.instr.map hostWord

/-- A token of the text: a word of letters and digits, a number with its sign, or a comma. -/
inductive Token where
  | text (cs : List Char)
  | comma
  deriving DecidableEq, Repr

/-- The tokens of a line up to its comment (R86: `;` starts a comment); spaces, tabs and carriage returns are white
space, the model's choice (log 25); `acc` holds the current word, last character first. -/
def tokens (acc : List Char) : List Char → List Token
  | [] => if acc = [] then [] else [.text acc.reverse]
  | c :: cs =>
    if c = ';' then (if acc = [] then [] else [.text acc.reverse])
    else if c = ',' then (if acc = [] then [] else [.text acc.reverse]) ++ .comma :: tokens [] cs
    else if c = ' ' ∨ c = '\t' ∨ c = '\r' then (if acc = [] then [] else [.text acc.reverse]) ++ tokens [] cs
    else tokens (c :: acc) cs

/-- A digit of base ten or sixteen. -/
def digitOf (base : Nat) (c : Char) : Option Nat :=
  if '0'.toNat ≤ c.toNat ∧ c.toNat ≤ '9'.toNat then some (c.toNat - '0'.toNat)
  else if base = 16 ∧ 'a'.toNat ≤ c.toNat ∧ c.toNat ≤ 'f'.toNat then some (c.toNat - 'a'.toNat + 10)
  else if base = 16 ∧ 'A'.toNat ≤ c.toNat ∧ c.toNat ≤ 'F'.toNat then some (c.toNat - 'A'.toNat + 10)
  else none

/-- Digits as a number; `none` if one is no digit. -/
def digitsOf (base acc : Nat) : List Char → Option Nat
  | [] => some acc
  | c :: cs => (digitOf base c).bind fun d => digitsOf base (acc * base + d) cs

/-- An unsigned number: decimal, or hexadecimal after 0x (R86). -/
def naturalOf : List Char → Option Nat
  | [] => none
  | ['0', 'x'] => none
  | '0' :: 'x' :: c :: cs => digitsOf 16 0 (c :: cs)
  | c :: cs => digitsOf 10 0 (c :: cs)

/-- A number with an optional leading minus (R86). -/
def numberOf : List Char → Option Int
  | '-' :: cs => (naturalOf cs).map fun n => -(n : Int)
  | cs => (naturalOf cs).map fun n => (n : Int)

/-- The operand `cmd` or `data` of send (R86). -/
def modeOf (cs : List Char) : Option Mode :=
  if cs = ['c', 'm', 'd'] then some .cmd else if cs = ['d', 'a', 't', 'a'] then some .data else none

/-- The operand `black` or `white` of setpx (R86). -/
def colorOf (cs : List Char) : Option Color :=
  if cs = ['b', 'l', 'a', 'c', 'k'] then some .black
  else if cs = ['w', 'h', 'i', 't', 'e'] then some .white else none

/-- The operand of dispmode (R87). -/
def dispModeOf (cs : List Char) : Option DispMode :=
  if cs = ['b', 'l', 'a', 'n', 'k'] then some .blank
  else if cs = ['n', 'o', 'r', 'm', 'a', 'l'] then some .normal
  else if cs = ['a', 'l', 'l', 'o', 'n'] then some .allon
  else if cs = ['i', 'n', 'v', 'e', 'r', 's', 'e'] then some .inverse else none

/-- The mnemonics of R86 and R87 that take no operand. -/
def bareLine (m : List Char) : Option AsmLine :=
  if m = ['f', 'l', 'u', 's', 'h'] then some .flush
  else if m = ['c', 'l', 'e', 'a', 'r'] then some .clear
  else if m = ['h', 'o', 'm', 'e'] then some .home
  else if m = ['e', 'x', 't', 'e', 'n', 'd', 'e', 'd'] then some .extended
  else if m = ['b', 'a', 's', 'i', 'c'] then some .basic
  else none

/-- The mnemonics that take one operand (R86, R87). -/
def oneLine (m a : List Char) : Option AsmLine :=
  if m = ['i', 'n', 'i', 't'] then (numberOf a).map .init
  else if m = ['w', 'r', 'i', 't', 'e'] then (numberOf a).map .write
  else if m = ['s', 'e', 'n', 'd', 'c', 'm', 'd'] then (numberOf a).map .sendcmd
  else if m = ['s', 'e', 'n', 'd', 'd', 'a', 't', 'a'] then (numberOf a).map .senddata
  else if m = ['d', 'i', 's', 'p', 'm', 'o', 'd', 'e'] then (dispModeOf a).map .dispmode
  else if m = ['t', 'e', 'm', 'p', 'c', 'o'] then (numberOf a).map .tempco
  else if m = ['s', 'e', 't', 'b', 'i', 'a', 's'] then (numberOf a).map .setbias
  else if m = ['s', 'e', 't', 'v', 'o', 'p'] then (numberOf a).map .setvop
  else none

/-- The mnemonics that take two operands (R86, R87). -/
def twoLine (m a b : List Char) : Option AsmLine :=
  if m = ['s', 'e', 'n', 'd'] then (modeOf a).bind fun md => (numberOf b).map (.send md)
  else if m = ['s', 'e', 't', 'a', 'd', 'd', 'r'] then
    (numberOf a).bind fun c => (numberOf b).map fun k => .setaddr c k
  else if m = ['g', 'e', 't', 'p', 'x'] then (numberOf a).bind fun x => (numberOf b).map fun y => .getpx x y
  else if m = ['p', 'x'] then (numberOf a).bind fun x => (numberOf b).map fun y => .px x y
  else none

/-- The mnemonic that takes three operands (R86). -/
def threeLine (m a b c : List Char) : Option AsmLine :=
  if m = ['s', 'e', 't', 'p', 'x'] then
    (numberOf a).bind fun x => (numberOf b).bind fun y => (colorOf c).map fun col => .setpx x y col
  else none

/-- A line's tokens as a line of the assembler: the mnemonic, and its operands between commas. -/
def lineOfTokens : List Token → Option AsmLine
  | [.text m] => bareLine m
  | [.text m, .text a] => oneLine m a
  | [.text m, .text a, .comma, .text b] => twoLine m a b
  | [.text m, .text a, .comma, .text b, .comma, .text c] => threeLine m a b c
  | _ => none

/-- The lines of a text, split at line ends; `acc` holds the current line, last character first. -/
def splitLines (acc : List Char) : List Char → List (List Char)
  | [] => [acc.reverse]
  | c :: cs => if c = '\n' then acc.reverse :: splitLines [] cs else splitLines (c :: acc) cs

/-- The command words of a text's lines; an empty or comment line is none; a line the assembler rejects rejects the
text (R86). -/
def assembleLines : List (List Char) → Option (List Word)
  | [] => some []
  | l :: ls =>
    match tokens [] l with
    | [] => assembleLines ls
    | ts => (lineOfTokens ts).bind fun a => a.word.bind fun w => (assembleLines ls).map fun ws => w :: ws

/-- A program text as the words a host writes to CMD, one line one word (R86). -/
def assemble (text : List Char) : Option (List Word) := assembleLines (splitLines [] text)

end Sys2Proof
end

