-- ==== Sys2Proof/Machine/Bus.lean ====
section
/-! DEFINITION. Machine/Bus.lean: the pin level of the serial bus: the pin events of a command, a receiver that reads
frames back from them, and the waits added up (spec/40_bus_transport.md R101 to R106, 70 R290). -/

namespace Sys2Proof.Machine

/-- An event on the pins, or a wait between two (R10, R105). -/
inductive PinEvent where
  | set (p : Pin) (v : Bool)
  | wait (t : Duration)
  deriving DecidableEq, Repr

/-- The pin event of a micro-step, if it is one. -/
def Micro.pinEvent : Micro → Option PinEvent
  | .pin p v => some (.set p v)
  | .wait t => some (.wait t)
  | .accept _ _ => none
  | .load _ => none
  | .count => none
  | .frameEnd _ _ => none
  | .pulseEnd => none
  | .seqAt _ _ => none
  | .store _ _ => none
  | .done _ => none

/-- The pin event trace of micro-steps, in time order (R105). -/
def pinTrace (ms : List Micro) : List PinEvent := ms.filterMap Micro.pinEvent

/-- What a receiver on the far side holds: the levels it sees, the samples of the interval in which SCE_N is low, and
the frames and reset pulses it has read (R102, R105). -/
structure Receiver where
  pins : Pins
  samples : List Bool
  frames : List (Mode × Byte)
  edges : Nat
  pulses : Nat
  deriving DecidableEq, Repr

/-- A receiver that has seen nothing, on an idle bus (R31). -/
def Receiver.start (p : Pins) : Receiver := { pins := p, samples := [], frames := [], edges := 0, pulses := 0 }

/-- The mode DC selects (R82). -/
def modeOfDc (dc : Bool) : Mode := Mode.ofBit dc

/-- One pin event at the receiver: SDIN is sampled on a rising edge of SCLK inside an SCE_N-low interval, and an
interval of eight samples is one frame (R101, R102, R105). -/
def Receiver.see (r : Receiver) : PinEvent → Receiver
  | .wait _ => r
  | .set .sclk v =>
    if v && !r.pins.sclk && !r.pins.sceN then
      { r with pins := r.pins.set .sclk v, samples := r.samples ++ [r.pins.sdin], edges := r.edges + 1 }
    else { r with pins := r.pins.set .sclk v }
  | .set .sdin v => { r with pins := r.pins.set .sdin v }
  | .set .dc v => { r with pins := r.pins.set .dc v }
  | .set .sceN v =>
    if v && !r.pins.sceN then
      { r with
        pins := r.pins.set .sceN v
        samples := []
        frames := if r.samples.length = 8 then r.frames ++ [(modeOfDc r.pins.dc, byteOfSamples r.samples)]
                  else r.frames }
    else { r with pins := r.pins.set .sceN v, samples := [] }
  | .set .rstN v =>
    { r with pins := r.pins.set .rstN v, pulses := if v && !r.pins.rstN then r.pulses + 1 else r.pulses }

/-- A pin trace read by the receiver (R105). -/
def Receiver.read (r : Receiver) (es : List PinEvent) : Receiver := es.foldl Receiver.see r

/-- The frames of a script, in order (R290's "frames emitted"). -/
def scriptFrames (as : List Action) : List (Mode × Byte) :=
  as.filterMap fun a =>
    match a with
    | .emit m b => some (m, b)
    | .op _ => none
    | .resetPulse => none

/-- The waits of a pin trace added up: the least time it takes (R106, R290; log 20). -/
def busTime (d : Duration → Nat) (es : List PinEvent) : Nat :=
  (es.map fun e =>
    match e with
    | .set _ _ => 0
    | .wait t => d t).sum

/-- The least duration of a frame (R290). -/
def frameTime (d : Duration → Nat) : Nat :=
  d .setup + 8 * (d .sclkLow + d .sclkHigh) + d .hold + d .gap

/-- The least duration of INIT's reset pulse (R121, R285). -/
def pulseTime (d : Duration → Nat) : Nat := d .rstLow + d .rstRecover

end Sys2Proof.Machine
end

