-- ==== Sys2Proof/Machine/Observe.lean ====
section
/-! DEFINITION. Machine/Observe.lean: the panel as the spec observes it: the reference decoder folded over the wire
trace, and the visible image (spec/44_wire_commands.md R212 to R217). -/

namespace Sys2Proof.Machine

/-- The effect of a decoded frame on the controller; no host command reaches it. -/
def Lcd.apply (i : Instr) (l : Lcd) : Lcd :=
  match i with
  | .fset pd v h => l.fset pd v h
  | .dctl d e => l.dctl d e
  | .yaddr bank => l.yaddr bank
  | .xaddr col => l.xaddr col
  | .tempco tc => l.tempco tc
  | .bias bs => l.bias bs
  | .vop v => l.vop v
  | .data d => l.data d
  | .init _ => l
  | .send _ _ => l
  | .setaddr _ _ => l
  | .write _ => l
  | .flush => l
  | .clear => l
  | .setpx _ _ _ => l
  | .getpx _ _ => l

/-- A frame at the controller: decoded in its command set, or UNDEF (R201, R213). -/
def Lcd.frame (m : Mode) (b : Byte) : Lcd → Lcd
  | .undef => .undef
  | .known r =>
    match decodeFrame r.h (frameBits m b) with
    | .ok i => Lcd.apply i (.known r)
    | .error _ => .undef

/-- One event of the wire (R202, R213, R215, R217). -/
def Lcd.event (l : Lcd) : WireEvent → Lcd
  | .frame m b => l.frame m b
  | .resetPulse => .known LcdRegs.afterReset
  | .cut => .undef
  | .blockReset => .undef

/-- `observe(trace)`, from UNDEF (R214). -/
def observe (es : List WireEvent) : Lcd := es.foldl Lcd.event .undef

/-- The display byte (bank, col), if it is known (R200). -/
def LcdRegs.dd (r : LcdRegs) (bank col : Nat) : Option Byte := r.ddram.read (fbIndex bank col)

/-- The visible pixel at (x, y): by the display mode, blank in power-down (log 21); none where nothing is known of it
(R212, R213). -/
def Lcd.visible (l : Lcd) (x y : Nat) : Option Bool :=
  match l with
  | .undef => none
  | .known r =>
    if r.pd then some false
    else
      match r.d, r.e with
      | false, false => some false
      | true, false => (r.dd (y / 8) x).map (·.getLsbD (y % 8))
      | false, true => some true
      | true, true => (r.dd (y / 8) x).map (fun b => !b.getLsbD (y % 8))

end Sys2Proof.Machine
end

