-- ==== Sys2Proof/Safety.lean ====
section
/-! DEFINITION. Safety.lean: what holds of a run, in the terms the claims use: the invariants of the machine, the runs of
commands, and the commands that keep the panel known (spec/10_state.md R22 to R31, 44_wire_commands.md R216). -/

namespace Sys2Proof.Machine

/-- STATUS as R22 and R241 allow it: a cause code of the table, and FAULT exactly when a cause is recorded. -/
def Status.ok (st : Status) : Bool := decide (st.cause.toNat ≤ 2) && (st.fault == decide (st.cause ≠ 0#4))

/-- The controller's record as R200 bounds it: X in 0..83, Y in 0..5, and a 504-byte display memory. -/
def Lcd.ok : Lcd → Bool
  | .undef => true
  | .known r => decide (r.x < 84) && decide (r.y < 6) && r.ddram.wf

/-- A micro-step that stays inside the framebuffer, the walk's ranges and RDATA's one bit (R10, R28, R24). -/
def Micro.legal : Micro → Bool
  | .store i _ => decide (i < 504)
  | .seqAt bank col => decide (bank < 6) && decide (col < 84)
  | .done (.rdata v) => decide (v.toNat ≤ 1)
  | .done .plain => true
  | .done (.init _) => true
  | .accept _ _ => true
  | .pin _ _ => true
  | .wait _ => true
  | .load _ => true
  | .count => true
  | .frameEnd _ _ => true
  | .pulseEnd => true

/-- The ranges of the machine's state: the framebuffer in its canonical form (R50), STATUS (R22, R241), the reserved
bits of RDATA and CONTRAST (R24, R25), the walk (R28) and the controller (R200). -/
structure State.Ranges (s : State) : Prop where
  fb : s.fb.wf = true
  status : s.status.ok = true
  rdata : s.rdata.toNat ≤ 1
  contrast : s.contrast.toNat < 128
  seqBank : s.seqBank < 6
  seqCol : s.seqCol < 84
  lcd : s.lcd.ok = true
  todo : s.todo.all Micro.legal = true

/-- An idle block: nothing running, BITCNT in its range, the walk at its start, and the bus pins at their idle levels
(R23, R28, R31, R181). -/
structure State.Idle (s : State) : Prop where
  busy : s.status.busy = false
  todo : s.todo = []
  bitcnt : s.bitcnt ≤ 8
  seqBank : s.seqBank = 0
  seqCol : s.seqCol = 0
  sceN : s.pins.sceN = true
  sclk : s.pins.sclk = false
  rstN : s.pins.rstN = true

/-- The state once the running command is carried out to its end; an idle state itself. -/
def State.finished (s : State) : State := { runMicros s.todo s with todo := [] }

/-- BUSY tells the truth (R23, R31, R291): with BUSY = 0 the block is idle; with BUSY = 1 a command is in progress, BUSY
stays 1 until its last micro-step, BITCNT stays in 0..8 all the way, and carrying out what is left of it leaves the
block idle. -/
def State.BusyTrue (s : State) : Prop :=
  (s.status.busy = false ∧ s.Idle) ∨
  (s.status.busy = true ∧ s.todo ≠ [] ∧ (∀ k, k < s.todo.length → (runMicros (s.todo.take k) s).status.busy = true) ∧
    (∀ k, (runMicros (s.todo.take k) s).bitcnt ≤ 8) ∧
    s.finished.Idle)

/-- The controller is what observing the part of the trace it has taken gives (R214). -/
def State.Observed (s : State) : Prop := s.lcd = observe s.heard

/-- No fault recorded since the last block reset. -/
def State.faultFree (s : State) : Bool := !s.status.fault

/-- Host commands one after another, each as a whole (R11, R62). -/
def execAll : List Instr → State → Host.Outcome State Fault Refusal
  | [], s => .next s
  | i :: rest, s =>
    match exec i s with
    | .next t => execAll rest t
    | .fault r => .fault r
    | .refused r => .refused r

/-- A host command after which the controller is still where INIT left it but for its pointer and display memory: not
SEND (R216, R281), and a SETADDR inside 0..83 and 0..5 (R213, R283). -/
def keepsPanel : Instr → Bool
  | .init _ => true
  | .send _ _ => false
  | .setaddr col bank => decide (col.toNat < 84) && decide (bank.toNat < 6)
  | .write _ => true
  | .flush => true
  | .clear => true
  | .setpx _ _ _ => true
  | .getpx _ _ => true
  | .fset _ _ _ => false
  | .dctl _ _ => false
  | .yaddr _ => false
  | .xaddr _ => false
  | .tempco _ => false
  | .bias _ => false
  | .vop _ => false
  | .data _ => false

/-- What INIT leaves of the controller: normal set, horizontal addressing, powered up, display mode normal (R216). -/
def LcdRegs.ready (r : LcdRegs) : Bool := !r.h && !r.v && !r.pd && r.d && !r.e

/-- A known controller as INIT leaves it, its pointer in range (R216). -/
def Lcd.ready : Lcd → Bool
  | .undef => false
  | .known r => r.ready && decide (r.x < 84) && decide (r.y < 6)

/-- A CMD word that keeps the panel: an illegal word does nothing (R79). -/
def keepsPanelWord (w : Word) : Bool :=
  match decodeHost w with
  | .ok i => keepsPanel i
  | .error _ => true

/-- An outside action that keeps the panel; a block reset clears STATUS.INIT, so nothing is claimed after it (R215). -/
def Act.keepsPanel : Act → Bool
  | .access (.read _ _) => true
  | .access (.write _ _ v) => keepsPanelWord v
  | .blockReset => true

/-- The panel stays where INIT put it (R216, R281): every write held or to come keeps the panel, and if STATUS.INIT is 1
once the running command is done, the wire by then has left the controller as INIT leaves it. -/
structure State.PanelReady (s : State) : Prop where
  inbox : s.inbox.all (fun i => i.act.keepsPanel) = true
  held : ∀ w, s.held = some w → keepsPanelWord w = true
  ready : s.finished.status.init = true → (observe s.finished.trace).ready = true

end Sys2Proof.Machine
end

