-- ==== Sys2Proof/Certificates/Slice0/Obligations.lean ====
section
/-! DEFINITION. Certificates/Slice0/Obligations.lean: the statements about the machine that the provers are to settle, each with
the rule of spec/ it formalises. -/

open Sys2Proof Sys2Proof.Machine

/-! ## Encodings -/

/-- R88: the encoding examples: each line assembles to its word, and the word decodes to the line's command. -/
def Obligations.ExampleWordsDecode : Prop :=
  ∀ e ∈ ([
      (.init 60, 0x1000003C#32, .init 60#8),
      (.send .cmd 0x21, 0x20000021#32, .send .cmd 0x21#8),
      (.send .data 0xA5, 0x200001A5#32, .send .data 0xA5#8),
      (.setaddr 0 0, 0x30000000#32, .setaddr 0#7 0#3),
      (.setaddr 83 5, 0x30005305#32, .setaddr 83#7 5#3),
      (.write 0xFF, 0x400000FF#32, .write 0xFF#8),
      (.flush, 0x50000000#32, .flush),
      (.clear, 0x60000000#32, .clear),
      (.setpx 3 10 .black, 0x7100300A#32, .setpx .black 3 10),
      (.setpx (-1) 0 .black, 0x71FFF000#32, .setpx .black (-1) 0),
      (.getpx 83 47, 0x8005302F#32, .getpx 83 47)] : List (AsmLine × Word × Instr)),
    e.1.word = some e.2.1 ∧ decodeHost e.2.1 = .ok e.2.2

/-- Decoding an encoded well-formed instruction gives it back, a wire frame in a command set it belongs to. -/
def Obligations.DecodeOfEncode : Prop :=
  ∀ (h : Bool) (i : Instr), i.wellFormed = true → i.definedIn h = true → decode h (encode i) = .ok i

/-- Whatever decodes is well-formed, belongs to the command set, and encodes to the very word or frame it was read
from: no bit is dropped. -/
def Obligations.EncodeOfDecode : Prop :=
  ∀ (h : Bool) (c : Code) (i : Instr), decode h c = .ok i →
    encode i = c ∧ i.wellFormed = true ∧ i.definedIn h = true

/-- R79: which words are illegal, by the opcode map and the must-be-zero bits of the formats, and that an illegal word
records ILLEGAL_CMD and changes nothing else, initialised or not. -/
def Obligations.IllegalWordRecordsFaultOnly : Prop :=
  ∀ (w : Word) (s : State),
    let legal :=
      w &&& 0xFFFFFF00#32 = 0x10000000#32 ∨ w &&& 0xFFFFFE00#32 = 0x20000000#32 ∨
      w &&& 0xFFFF80F8#32 = 0x30000000#32 ∨ w &&& 0xFFFFFF00#32 = 0x40000000#32 ∨
      w = 0x50000000#32 ∨ w = 0x60000000#32 ∨
      w &&& 0xFE000000#32 = 0x70000000#32 ∨ w &&& 0xFF000000#32 = 0x80000000#32
    (¬ legal → accept w s = .next { s with
        status := { s.status with
          fault := true
          cause := if s.status.cause = 0#4 then 1#4 else s.status.cause } }) ∧
    (legal → ∃ i, decodeHost w = .ok i)

/-- R84: each byte the block builds is the command it is meant to be, in the set INIT, SETADDR and FLUSH send it in, for
every value of its field: a field cannot reach the prefix bits. -/
def Obligations.BuiltBytesAreTheirCommands : Prop :=
  (∀ col, decodeNormal (xAddrByte col) = .ok (.xaddr col)) ∧
  (∀ bank, decodeNormal (yAddrByte bank) = .ok (.yaddr bank)) ∧
  (∀ c, decodeExtended (vopByte c) = .ok (.vop c)) ∧
  (∀ b, decodeExtended (biasByte b) = .ok (.bias b)) ∧
  (∀ pd v h, decodeNormal (fsetByte pd v h) = .ok (.fset pd v h) ∧
    decodeExtended (fsetByte pd v h) = .ok (.fset pd v h)) ∧
  (∀ d e, decodeNormal (dctlByte d e) = .ok (.dctl d e))

/-- R86: an operand outside its field's range is rejected and never wrapped into range; inside the range it is the field. -/
def Obligations.AssemblerRejectsOutOfRange : Prop :=
  (∀ c, (AsmLine.init c).instr = if 0 ≤ c ∧ c ≤ 255 then some (.init (BitVec.ofInt 8 c)) else none) ∧
  (∀ m b, (AsmLine.send m b).instr = if 0 ≤ b ∧ b ≤ 255 then some (.send m (BitVec.ofInt 8 b)) else none) ∧
  (∀ c b, (AsmLine.setaddr c b).instr =
    if 0 ≤ c ∧ c ≤ 127 ∧ 0 ≤ b ∧ b ≤ 7 then some (.setaddr (BitVec.ofInt 7 c) (BitVec.ofInt 3 b)) else none) ∧
  (∀ b, (AsmLine.write b).instr = if 0 ≤ b ∧ b ≤ 255 then some (.write (BitVec.ofInt 8 b)) else none) ∧
  (∀ x y c, (AsmLine.setpx x y c).instr =
    if -2048 ≤ x ∧ x ≤ 2047 ∧ -2048 ≤ y ∧ y ≤ 2047 then some (.setpx c x y) else none) ∧
  (∀ x y, (AsmLine.getpx x y).instr =
    if -2048 ≤ x ∧ x ≤ 2047 ∧ -2048 ≤ y ∧ y ≤ 2047 then some (.getpx x y) else none)

/-- R87: the pseudo-instructions and the one command each expands to. -/
def Obligations.PseudoInstructionExpansions : Prop :=
  (∀ b, (AsmLine.sendcmd b).instr = (AsmLine.send .cmd b).instr) ∧
  (∀ b, (AsmLine.senddata b).instr = (AsmLine.send .data b).instr) ∧
  AsmLine.home.instr = (AsmLine.setaddr 0 0).instr ∧
  AsmLine.extended.instr = (AsmLine.send .cmd 0x21).instr ∧
  AsmLine.basic.instr = (AsmLine.send .cmd 0x20).instr ∧
  (AsmLine.dispmode .blank).instr = (AsmLine.send .cmd 0x08).instr ∧
  (AsmLine.dispmode .normal).instr = (AsmLine.send .cmd 0x0C).instr ∧
  (AsmLine.dispmode .allon).instr = (AsmLine.send .cmd 0x09).instr ∧
  (AsmLine.dispmode .inverse).instr = (AsmLine.send .cmd 0x0D).instr ∧
  (∀ t : Int, 0 ≤ t → t ≤ 3 → (AsmLine.tempco t).instr = (AsmLine.send .cmd (4 + t)).instr) ∧
  (∀ b : Int, 0 ≤ b → b ≤ 7 → (AsmLine.setbias b).instr = (AsmLine.send .cmd (16 + b)).instr) ∧
  (∀ v : Int, 0 ≤ v → v ≤ 127 → (AsmLine.setvop v).instr = (AsmLine.send .cmd (128 + v)).instr) ∧
  (∀ x y, (AsmLine.px x y).instr = (AsmLine.setpx x y .black).instr)

/-! ## The step -/

/-- An idle block whose next outside action is the CMD write of a legal word, not interrupted, runs that command. What
an interrupted one does is said by StepGoesOnWithCommand and InterruptedCommandEndsAsWhole (log 14). -/
def Obligations.StepRunsHostWord : Prop :=
  ∀ (s : State) (a : Arrival) (w : Word) (i : Instr) (rest : List Input),
    s.pending = [] → s.status.busy = false → s.held = none →
    s.inbox = ⟨a, .access (.write s.par.base 32 w)⟩ :: rest → decodeHost w = .ok i →
    ({ s with inbox := rest } : State).interruptAt = none →
    step s = exec i { s with inbox := rest }

/-- R11, R61, R63: a busy block goes on with its command: to its end if nothing from outside falls inside it, to the
micro-step at which something does, and that then has its turn; while a CMD write is held only a block reset can arrive.
The times of arrival are the model's choice (log 14, 18). -/
def Obligations.StepGoesOnWithCommand : Prop :=
  ∀ s : State, s.pending = [] → s.status.busy = true → s.todo ≠ [] →
    (s.inbox = [] ∨ (∃ a rest, s.inbox = ⟨.whenIdle, a⟩ :: rest) ∨
        (∃ k a rest, s.inbox = ⟨.during k, .access a⟩ :: rest ∧ s.held ≠ none) →
      step s = .next { runMicros s.todo s with todo := [] }) ∧
    ∀ (a : Act) (rest : List Input), s.held = none ∨ a = .blockReset →
      (∀ k, s.inbox = ⟨.during (k + 1), a⟩ :: rest →
        step s = .next { runMicros (s.todo.take (k + 1)) s with
          todo := s.todo.drop (k + 1), inbox := ⟨.during 0, a⟩ :: rest }) ∧
      (s.inbox = ⟨.during 0, a⟩ :: rest → step s = perform a { s with inbox := rest })

/-- A frame on the wire that decodes in the controller's command set is executed as that wire instruction. -/
def Obligations.StepDeliversFrame : Prop :=
  ∀ (s : State) (m : Mode) (b : Byte) (rest : List WireEvent) (r : LcdRegs) (i : Instr),
    s.pending = .frame m b :: rest → s.lcd = .known r → decodeFrame r.h (frameBits m b) = .ok i →
    step s = exec i { s with pending := rest, heard := s.heard ++ [.frame m b] }

/-- R26: a CMD write while idle is delivered; while BUSY it is held, and delivered once BUSY = 0; a read of CMD is 0. -/
def Obligations.CmdWriteDeliveredOrHeld : Prop :=
  ∀ (s : State) (w : Word),
    (s.status.busy = false → perform (.access (.write s.par.base 32 w)) s = accept w s) ∧
    (s.status.busy = true → perform (.access (.write s.par.base 32 w)) s = .next { s with held := some w }) ∧
    (s.pending = [] → s.held = some w → s.status.busy = false → step s = accept w { s with held := none }) ∧
    perform (.access (.read s.par.base 32)) s = .next { s with replies := s.replies ++ [0#32] }

/-- R21: the four registers at their offsets: what a read returns and that writes to the read-only ones are ignored, at
once, BUSY or not. -/
def Obligations.RegisterWindow : Prop :=
  ∀ (s : State) (v : Word),
    perform (.access (.read s.par.base 32)) s = .next { s with replies := s.replies ++ [0#32] } ∧
    perform (.access (.read (s.par.base + 4) 32)) s = .next { s with replies := s.replies ++ [s.status.word] } ∧
    perform (.access (.read (s.par.base + 8) 32)) s = .next { s with replies := s.replies ++ [s.rdata] } ∧
    perform (.access (.read (s.par.base + 12) 32)) s = .next { s with replies := s.replies ++ [s.contrast] } ∧
    perform (.access (.write (s.par.base + 4) 32 v)) s = .next s ∧
    perform (.access (.write (s.par.base + 8) 32 v)) s = .next s ∧
    perform (.access (.write (s.par.base + 12) 32 v)) s = .next s

/-- R60, R249: an access that is not 32 bits wide, not 4-byte aligned, or outside the window is refused by name. -/
def Obligations.AccessesOutsideInterfaceRefused : Prop :=
  ∀ (s : State) (addr bits : Nat) (v : Word),
    (bits ≠ 32 →
      perform (.access (.read addr bits)) s = .refused .accessWidth ∧
      perform (.access (.write addr bits v)) s = .refused .accessWidth) ∧
    (addr < s.par.base ∨ s.par.base + 16 ≤ addr →
      perform (.access (.read addr 32)) s = .refused .outsideWindow ∧
      perform (.access (.write addr 32 v)) s = .refused .outsideWindow) ∧
    (s.par.base ≤ addr → addr < s.par.base + 16 → (addr - s.par.base) % 4 ≠ 0 →
      perform (.access (.read addr 32)) s = .refused .misaligned ∧
      perform (.access (.write addr 32 v)) s = .refused .misaligned)

/-- R22: the places of the STATUS fields in the word a host reads, and that every other bit reads 0. -/
def Obligations.StatusWordLayout : Prop :=
  ∀ st : Status,
    st.word.getLsbD 0 = st.busy ∧ st.word.getLsbD 1 = st.init ∧ st.word.getLsbD 2 = st.fault ∧
    st.word.getLsbD 3 = false ∧ st.word.extractLsb' 4 4 = st.cause ∧ st.word.extractLsb' 8 24 = 0#24

/-! ## Reset -/

/-- R35: the state after reset; a framebuffer byte is the free value `FB_INIT`, whatever it is; the controller's state is
not known. -/
def Obligations.ResetValues : Prop :=
  State.reset.status.word = 0#32 ∧ State.reset.rdata = 0#32 ∧ State.reset.contrast = 0#32 ∧
  (∀ i, State.reset.fbRead i = Config.fbInit 0 i) ∧
  State.reset.seqBank = 0 ∧ State.reset.seqCol = 0 ∧ State.reset.shift = 0#8 ∧ State.reset.bitcnt = 0 ∧
  State.reset.pins = { sclk := false, sdin := false, dc := false, sceN := true, rstN := true } ∧
  State.reset.lcd = .undef

/-- R270, R271: a block reset at any time, mid-command too, gives every piece of block state its reset value, the
framebuffer a new draw of `FB_INIT`, drops the running command and a held CMD write, and adds no frame to the frame
list (not even one whose last bit is out but whose gap is not over, log 16). The host's side is kept (log 27). -/
def Obligations.BlockResetAtAnyTime : Prop :=
  ∀ s : State, ∃ t, perform .blockReset s = .next t ∧
    t.status.word = 0#32 ∧ t.rdata = 0#32 ∧ t.contrast = 0#32 ∧
    (∀ i, t.fbRead i = Config.fbInit (s.draw + 1) i) ∧
    t.seqBank = 0 ∧ t.seqCol = 0 ∧ t.shift = 0#8 ∧ t.bitcnt = 0 ∧
    t.pins = { sclk := false, sdin := false, dc := false, sceN := true, rstN := true } ∧
    t.todo = [] ∧ t.held = none ∧ framesOf t.trace = framesOf s.trace ∧
    t.par = s.par ∧ t.inbox = s.inbox ∧ t.replies = s.replies ∧ t.lcd = s.lcd ∧ t.heard = s.heard

/-- R215, R217: after a block reset the panel is unknown, and it stays so until a reset pulse. The model's reading that
every block reset does this, not only one that cuts a frame, is log 8. -/
def Obligations.BlockResetLosesPanel : Prop :=
  ∀ (s t : State) (fs : List (Mode × Byte)), perform .blockReset s = .next t →
    observe (t.trace ++ fs.map fun f => .frame f.1 f.2) = .undef

/-! ## The host commands -/

/-- R120, R121, R124, R101: INIT in any state: the reset pulse, the five frames in order, CONTRAST, STATUS.INIT;
everything else as it was. What SHIFT, BITCNT and CUR hold in the idle block after it is the model's choice (log 19,
28), and the bytes 0x21, 0x20 and 0x0C are general knowledge in the spec (log 24). -/
def Obligations.InitRunsFixedSequence : Prop :=
  ∀ (s : State) (c : Byte),
    exec (.init c) s = .next { s with
      status := { s.status with busy := false, init := true }
      contrast := (contrast7 s.par.contrastMode c).setWidth 32
      cur := 0x10000000#32 ||| c.setWidth 32
      shift := 0x0C#8
      bitcnt := 8
      pins := { sclk := false, sdin := false, dc := false, sceN := true, rstN := true }
      pending := s.pending ++ [.resetPulse, .frame .cmd 0x21#8, .frame .cmd (0x10#8 ||| s.par.bias.setWidth 8),
        .frame .cmd (0x80#8 ||| (contrast7 s.par.contrastMode c).setWidth 8), .frame .cmd 0x20#8,
        .frame .cmd 0x0C#8] }

/-- R122: the contrast reduction in both modes, CLAMP being the default, and that the Vop byte is always 0x80..0xFF. -/
def Obligations.ContrastReducedToSevenBits : Prop :=
  State.reset.par.contrastMode = .clamp ∧ ∀ c : Byte,
    (contrast7 .clamp c).toNat = min c.toNat 127 ∧
    (contrast7 .mask c).toNat = c.toNat % 128 ∧
    (c.toNat ≤ 127 → contrast7 .clamp c = contrast7 .mask c) ∧
    ∀ mode, (vopByte (contrast7 mode c)).toNat = 128 + (contrast7 mode c).toNat

/-- R104, R101: SEND, initialised: one raw frame in the chosen mode, any byte; everything else as it was. What SHIFT,
BITCNT and CUR hold in the idle block after it is the model's choice (log 19, 28). -/
def Obligations.SendEmitsOneFrame : Prop :=
  ∀ (s : State) (m : Mode) (v : Byte), s.status.init = true →
    exec (.send m v) s = .next { s with
      status := { s.status with busy := false }
      cur := 0x20000000#32 ||| (if m = .data then 0x100#32 else 0#32) ||| v.setWidth 32
      shift := v
      bitcnt := 8
      pins := { sclk := false, sdin := v.getLsbD 0, dc := decide (m = .data), sceN := true, rstN := s.pins.rstN }
      pending := s.pending ++ [.frame m v] }

/-- R125, R126, R127, R101: SETADDR, initialised: the X-address frame, then the Y-address frame, every value unchecked;
everything else as it was. What SHIFT, BITCNT and CUR hold in the idle block after it is the model's choice (log 19,
28). -/
def Obligations.SetaddrEmitsAddressPair : Prop :=
  ∀ (s : State) (col : BitVec 7) (bank : BitVec 3), s.status.init = true →
    exec (.setaddr col bank) s = .next { s with
      status := { s.status with busy := false }
      cur := 0x30000000#32 ||| (col.setWidth 32 <<< 8) ||| bank.setWidth 32
      shift := 0x40#8 ||| bank.setWidth 8
      bitcnt := 8
      pins := { sclk := false, sdin := bank.getLsbD 0, dc := false, sceN := true, rstN := s.pins.rstN }
      pending := s.pending ++ [.frame .cmd (0x80#8 ||| col.setWidth 8), .frame .cmd (0x40#8 ||| bank.setWidth 8)] }

/-- R128, R101: WRITE, initialised: one data frame; everything else, the framebuffer too, as it was. What SHIFT, BITCNT
and CUR hold in the idle block after it is the model's choice (log 19, 28). -/
def Obligations.WriteEmitsDataFrame : Prop :=
  ∀ (s : State) (v : Byte), s.status.init = true →
    exec (.write v) s = .next { s with
      status := { s.status with busy := false }
      cur := 0x40000000#32 ||| v.setWidth 32
      shift := v
      bitcnt := 8
      pins := { sclk := false, sdin := v.getLsbD 0, dc := true, sceN := true, rstN := s.pins.rstN }
      pending := s.pending ++ [.frame .data v] }

/-- R181, R182, R183: FLUSH, initialised: the address pair of (0, 0), then 504 data frames, the k-th carrying byte k of
the framebuffer, which is the packed byte of bank k/84 and column k%84; the walk ends at its start; everything else,
the framebuffer too, as it was. What SHIFT, BITCNT and CUR hold in the idle block after it is the model's choice (log
19, 28). -/
def Obligations.FlushSendsWholeFramebuffer : Prop :=
  ∀ s : State, s.status.init = true →
    exec .flush s = .next { s with
      status := { s.status with busy := false }
      cur := 0x50000000#32
      seqBank := 0
      seqCol := 0
      shift := s.fbRead 503
      bitcnt := 8
      pins := { sclk := false, sdin := (s.fbRead 503).getLsbD 0, dc := true, sceN := true, rstN := s.pins.rstN }
      pending := s.pending ++ (.frame .cmd 0x80#8 :: .frame .cmd 0x40#8 ::
        (List.range 504).map fun k => .frame .data (s.fbRead k)) } ∧
    ∀ k, k < 504 → s.pack (k / 84) (k % 84) = s.fbRead k

/-- R150: CLEAR, initialised: every framebuffer byte reads 0x00; no frame; everything else as it was. That CUR keeps the
word is the model's choice (log 28). -/
def Obligations.ClearZeroesFramebuffer : Prop :=
  ∀ s : State, s.status.init = true → ∃ t, exec .clear s = .next t ∧
    (∀ i, i < 504 → t.fbRead i = 0x00#8) ∧
    (∀ i, 504 ≤ i → t.fbRead i = s.fbRead i) ∧
    t = { s with status := { s.status with busy := false }, cur := 0x60000000#32, fb := t.fb }

/-- R152, R153: SETPX, initialised: in bounds, one bit of the pixel's byte is set directly and every other byte reads as
before; out of bounds, the framebuffer is unchanged and there is no fault; no frame; everything else as it was. That
CUR keeps the word is the model's choice (log 28). -/
def Obligations.SetpxSetsOnePixel : Prop :=
  ∀ (s : State) (c : Color) (x y : Int), s.status.init = true →
    ∃ t, exec (.setpx c x y) s = .next t ∧
      (if 0 ≤ x ∧ x < 84 ∧ 0 ≤ y ∧ y < 48 then
        ∀ i, t.fbRead i =
          if i = y.toNat / 8 * 84 + x.toNat then
            (s.fbRead i &&& ~~~(1#8 <<< (y.toNat % 8))) |||
              ((if c = .black then 1#8 else 0#8) <<< (y.toNat % 8))
          else s.fbRead i
      else t.fb = s.fb) ∧
      t = { s with status := { s.status with busy := false }, cur := hostWord (.setpx c x y), fb := t.fb }

/-- R154: the four laws of SETPX on pixels: (a) out of bounds nothing, (b) in bounds that pixel only, (c) twice is once,
(d) two different pixels commute. -/
def Obligations.SetpxLaws : Prop :=
  ∀ (s : State) (c c' : Color) (x y x' y' : Int), s.status.init = true →
    ∃ t t2 u v w,
      exec (.setpx c x y) s = .next t ∧ exec (.setpx c x y) t = .next t2 ∧
      exec (.setpx c' x' y') t = .next u ∧
      exec (.setpx c' x' y') s = .next v ∧ exec (.setpx c x y) v = .next w ∧
      (inBounds x y = false → t.fb = s.fb ∧ t.status.fault = s.status.fault ∧ t.status.cause = s.status.cause) ∧
      (inBounds x y = true → t.pixel x.toNat y.toNat = c.bit ∧
        ∀ a b, a < 84 → b < 48 → (a ≠ x.toNat ∨ b ≠ y.toNat) → t.pixel a b = s.pixel a b) ∧
      t2.fb = t.fb ∧
      (inBounds x y = true → inBounds x' y' = true → (x ≠ x' ∨ y ≠ y') → ∀ i, u.fbRead i = w.fbRead i)

/-- R160, R161: GETPX, initialised: RDATA is the pixel in bounds and 0 outside; no frame, the framebuffer untouched;
everything else as it was. That CUR keeps the word is the model's choice (log 28). -/
def Obligations.GetpxReadsPixel : Prop :=
  ∀ (s : State) (x y : Int), s.status.init = true →
    exec (.getpx x y) s = .next { s with
      status := { s.status with busy := false }
      cur := hostWord (.getpx x y)
      rdata :=
        if 0 ≤ x ∧ x < 84 ∧ 0 ≤ y ∧ y < 48 then
          (if (s.fbRead (y.toNat / 8 * 84 + x.toNat)).getLsbD (y.toNat % 8) then 1#32 else 0#32)
        else 0#32 }

/-- R240, R241 (NOT_INITIALIZED): every host command but INIT, with STATUS.INIT = 0: FAULT is set, CAUSE takes 2 if it
was 0, and nothing else changes. -/
def Obligations.UninitialisedCommandFaultsOnly : Prop :=
  ∀ (s : State) (i : Instr), i.isHost = true → (∀ c, i ≠ .init c) → s.status.init = false →
    exec i s = .next { s with
      status := { s.status with
        fault := true
        cause := if s.status.cause = 0#4 then 2#4 else s.status.cause } }

/-- R291, R23: every accepted host command completes, with BUSY = 0 and no fault recorded by it. That CUR keeps the word
then is the model's choice (log 28). -/
def Obligations.AcceptedCommandCompletes : Prop :=
  ∀ (s : State) (i : Instr), accepts i s = true → ∃ t, exec i s = .next t ∧
    t.status.busy = false ∧ t.status.init = true ∧ t.status.fault = s.status.fault ∧
    t.status.cause = s.status.cause ∧ t.cur = hostWord i

/-- R27, R24, R25, R56: only INIT changes STATUS.INIT and CONTRAST, only GETPX writes RDATA, only CLEAR and SETPX write
the framebuffer, and no command touches the parameters, the host's side, or the controller directly. -/
def Obligations.OnlyTheNamedCommandsWrite : Prop :=
  ∀ (i : Instr) (s t : State), exec i s = .next t →
    ((∀ c, i ≠ .init c) → t.status.init = s.status.init ∧ t.contrast = s.contrast) ∧
    ((∀ x y, i ≠ .getpx x y) → t.rdata = s.rdata) ∧
    (i ≠ .clear → (∀ c x y, i ≠ .setpx c x y) → ∀ a, t.fbRead a = s.fbRead a) ∧
    (i.isHost = true → t.lcd = s.lcd) ∧
    (i.isHost = false → t = { s with lcd := t.lcd }) ∧
    t.par = s.par ∧ t.draw = s.draw ∧ t.todo = s.todo ∧ t.held = s.held ∧ t.inbox = s.inbox ∧
    t.replies = s.replies ∧ t.heard = s.heard

/-- R184: FLUSH always sends all 504 bytes and does not modify the framebuffer; a second FLUSH, with no CLEAR and no
in-bounds SETPX in between, emits the same frames again. -/
def Obligations.FlushTwiceEmitsTheSame : Prop :=
  ∀ (s : State) (between : List Instr), s.status.init = true →
    (∀ i ∈ between, i.isHost = true ∧ i ≠ .clear ∧ ∀ c x y, i = .setpx c x y → inBounds x y = false) →
    ∃ t u v es mid,
      exec .flush s = .next t ∧ execAll between t = .next u ∧ exec .flush u = .next v ∧
      t.trace = s.trace ++ es ∧ u.trace = t.trace ++ mid ∧ v.trace = u.trace ++ es ∧
      framesOf es = (.cmd, 0x80#8) :: (.cmd, 0x40#8) :: (List.range 504).map (fun k => (.data, s.fbRead k)) ∧
      ∀ i, t.fbRead i = s.fbRead i ∧ v.fbRead i = s.fbRead i

/-! ## The framebuffer's geometry -/

/-- R170: the packed byte is the framebuffer byte of that bank and column, lane by lane the eight pixels. -/
def Obligations.PackIsFramebufferByte : Prop :=
  ∀ (s : State) (bank col : Nat), bank < 6 → col < 84 →
    s.pack bank col = s.fbRead (bank * 84 + col) ∧
    ∀ b, b < 8 → (s.pack bank col).getLsbD b = s.pixel col (8 * bank + b)

/-- R52, R51: bits and pixels are the same things under two names, and the two maps undo each other both ways. -/
def Obligations.PixelMapInverse : Prop :=
  ∀ s : State,
    (∀ i b, i < 504 → b < 8 →
      (s.fbRead i).getLsbD b = s.pixel (i % 84) (8 * (i / 84) + b) ∧ i % 84 < 84 ∧ 8 * (i / 84) + b < 48 ∧
      pixelIndex (i % 84) (8 * (i / 84) + b) = i ∧ (8 * (i / 84) + b) % 8 = b) ∧
    (∀ x y, x < 84 → y < 48 →
      pixelIndex x y < 504 ∧ pixelIndex x y % 84 = x ∧ 8 * (pixelIndex x y / 84) + y % 8 = y ∧
      s.pixel x y = (s.fbRead (pixelIndex x y)).getLsbD (y % 8))

/-! ## The controller -/

/-- R203, R204, R207, R208, R209: the five frames that set a controller register, in their command set with horizontal
addressing: that register changes and nothing else. -/
def Obligations.ControllerRegisterFrames : Prop :=
  ∀ (s : State) (r : LcdRegs), s.lcd = .known r → r.v = false →
    (∀ pd v h, exec (.fset pd v h) s = .next { s with lcd := .known { r with pd := pd, v := v, h := h } }) ∧
    (r.h = false → ∀ d e, exec (.dctl d e) s = .next { s with lcd := .known { r with d := d, e := e } }) ∧
    (r.h = true → ∀ tc, exec (.tempco tc) s = .next { s with lcd := .known { r with tc := tc } }) ∧
    (r.h = true → ∀ bs, exec (.bias bs) s = .next { s with lcd := .known { r with bs := bs } }) ∧
    (r.h = true → ∀ v, exec (.vop v) s = .next { s with lcd := .known { r with vop := v } })

/-- R205, R206: the address bytes of the normal set, and their frames: the pointer moves in range, and UNDEF follows out
of range. -/
def Obligations.ControllerAddressFrames : Prop :=
  (∀ col : BitVec 7, decodeFrame false (frameBits .cmd (1#1 ++ col)) = .ok (.xaddr col)) ∧
  (∀ bank : BitVec 3, decodeFrame false (frameBits .cmd (0b01000#5 ++ bank)) = .ok (.yaddr bank)) ∧
  ∀ (s : State) (r : LcdRegs), s.lcd = .known r → r.v = false → r.h = false →
    (∀ col : BitVec 7, exec (.xaddr col) s = .next { s with
      lcd := if col.toNat ≤ 83 then .known { r with x := col.toNat } else .undef }) ∧
    (∀ bank : BitVec 3, exec (.yaddr bank) s = .next { s with
      lcd := if bank.toNat ≤ 5 then .known { r with y := bank.toNat } else .undef })

/-- R210, R211: a data frame in either command set with horizontal addressing: the byte is stored at the pointer, every
other display byte is as before, and the pointer advances: column first, then bank, then round. -/
def Obligations.DataFrameStoresAndAdvances : Prop :=
  ∀ (s : State) (r : LcdRegs) (d : Byte), s.lcd = .known r → r.v = false → r.x < 84 → r.y < 6 →
    ∃ r', exec (.data d) s = .next { s with lcd := .known r' } ∧
      (∀ bank col, bank < 6 → col < 84 →
        r'.dd bank col = if bank = r.y ∧ col = r.x then some d else r.dd bank col) ∧
      r'.x = (if r.x = 83 then 0 else r.x + 1) ∧
      r'.y = (if r.x = 83 then (if r.y = 5 then 0 else r.y + 1) else r.y) ∧
      r' = { r with x := r'.x, y := r'.y, ddram := r'.ddram }

/-- R213, R83: a wire frame at a controller that is UNDEF changes nothing; one in vertical addressing (log 10), or in a
command set that does not have it, leaves UNDEF and nothing else changes. The byte XADDR and VOP share has a meaning in
both sets, and which name it came under does not matter (log 11). -/
def Obligations.FramesOutsideTheirSet : Prop :=
  ∀ (s : State) (i : Instr), i.isHost = false →
    (s.lcd = .undef → exec i s = .next s) ∧
    ∀ r : LcdRegs, s.lcd = .known r →
      (r.v = true → exec i s = .next { s with lcd := .undef }) ∧
      ((∀ c, i ≠ .xaddr c) → (∀ c, i ≠ .vop c) → i.definedIn r.h = false →
        exec i s = .next { s with lcd := .undef }) ∧
      ∀ c, exec (.xaddr c) s = exec (.vop c) s

/-- R203 to R209, R213: every command byte by its value, in each command set, with horizontal addressing: its effect, or
UNDEF. -/
def Obligations.CommandByteEffects : Prop :=
  ∀ (r : LcdRegs) (b : Byte), r.v = false →
    (Lcd.known r).frame .cmd b =
      if 0x20 ≤ b.toNat ∧ b.toNat ≤ 0x27 then
        .known { r with pd := b.getLsbD 2, v := b.getLsbD 1, h := b.getLsbD 0 }
      else if r.h = false then
        if b.toNat = 0x08 ∨ b.toNat = 0x09 ∨ b.toNat = 0x0C ∨ b.toNat = 0x0D then
          .known { r with d := b.getLsbD 2, e := b.getLsbD 0 }
        else if 0x40 ≤ b.toNat ∧ b.toNat ≤ 0x45 then .known { r with y := b.toNat - 0x40 }
        else if 0x80 ≤ b.toNat ∧ b.toNat ≤ 0xD3 then .known { r with x := b.toNat - 0x80 }
        else .undef
      else
        if 0x04 ≤ b.toNat ∧ b.toNat ≤ 0x07 then .known { r with tc := b.extractLsb' 0 2 }
        else if 0x10 ≤ b.toNat ∧ b.toNat ≤ 0x17 then .known { r with bs := b.extractLsb' 0 3 }
        else if 0x80 ≤ b.toNat then .known { r with vop := b.extractLsb' 0 7 }
        else .undef

/-- R213: UNDEF absorbs every frame, and so does vertical addressing; only a reset pulse leaves it, with the record of
R202. -/
def Obligations.UndefAbsorbsUntilResetPulse : Prop :=
  (∀ m b, Lcd.undef.frame m b = .undef) ∧
  (∀ (r : LcdRegs) m b, r.v = true → (Lcd.known r).frame m b = .undef) ∧
  (∀ fs : List (Mode × Byte), observe (fs.map fun f => .frame f.1 f.2) = .undef) ∧
  ∀ l : Lcd, l.event .resetPulse = .known
    { h := false, v := false, pd := true, d := false, e := false, x := 0, y := 0,
      vop := 0#7, bs := 0#3, tc := 0#2, ddram := [] }

/-- R212: the visible pixel by the display mode, when the controller is powered up: blank and all-on whatever the display
byte, normal and inverted by its bit, and nothing known where the byte is unknown (R202) or the controller UNDEF
(R213). That a powered-down controller shows a blank image is the model's reading (log 21). -/
def Obligations.VisibleByDisplayMode : Prop :=
  (∀ x y, Lcd.undef.visible x y = none) ∧
  ∀ (r : LcdRegs) (x y : Nat), x < 84 → y < 48 →
    (r.pd = true → (Lcd.known r).visible x y = some false) ∧
    (r.pd = false →
      (r.d = false → r.e = false → (Lcd.known r).visible x y = some false) ∧
      (r.d = false → r.e = true → (Lcd.known r).visible x y = some true) ∧
      (r.d = true → r.dd (y / 8) x = none → (Lcd.known r).visible x y = none) ∧
      ∀ b : Byte, r.dd (y / 8) x = some b → r.d = true →
        (r.e = false → (Lcd.known r).visible x y = some (b.getLsbD (y % 8))) ∧
        (r.e = true → (Lcd.known r).visible x y = some (!b.getLsbD (y % 8))))

/-- R216: after INIT and any commands that keep the panel (no SEND; SETADDR in range, which R216 leaves unsaid and R213
needs), a FLUSH puts the framebuffer on the panel, pixel by pixel, with the pointer back at (0, 0). -/
def Obligations.FlushRoundTrip : Prop :=
  ∀ (s : State) (c : Byte) (is : List Instr), is.all keepsPanel = true →
    ∃ t r, execAll (.init c :: (is ++ [.flush])) s = .next t ∧ observe t.trace = .known r ∧
      (∀ k, k < 504 → r.dd (k / 84) (k % 84) = some (t.fbRead k)) ∧ r.x = 0 ∧ r.y = 0 ∧
      ∀ x y, x < 84 → y < 48 → (observe t.trace).visible x y = some (t.pixel x y)

/-- R281, first case: a FLUSH to a controller left in the extended set loses the panel: 0x80 is the contrast and 0x40 has
no meaning. -/
def Obligations.FlushInExtendedSetLosesPanel : Prop :=
  ∀ (s : State) (r : LcdRegs), s.status.init = true → observe s.trace = .known r → r.h = true → r.v = false →
    observe (s.trace ++ [.frame .cmd 0x80#8]) = .known { r with vop := 0#7 } ∧
    ∃ t, exec .flush s = .next t ∧ observe t.trace = .undef

/-! ## The pins -/

/-- R102: the eight samples of a byte, most significant first, and the byte a receiver rebuilds from them. -/
def Obligations.SamplesRebuildByte : Prop :=
  ∀ b : Byte,
    bitsMsbFirst b = [b.getLsbD 7, b.getLsbD 6, b.getLsbD 5, b.getLsbD 4,
      b.getLsbD 3, b.getLsbD 2, b.getLsbD 1, b.getLsbD 0] ∧
    byteOfSamples (bitsMsbFirst b) = b

/-- R101, R105, R290: the pin trace of one frame on an idle bus: a receiver reads exactly that frame, from exactly eight
rising clock edges, and the bus is idle again; its waits add up to the frame's least time. -/
def Obligations.FramePinsReadBack : Prop :=
  ∀ (m : Mode) (b : Byte) (p : Pins) (d : Duration → Nat), p.sceN = true → p.sclk = false →
    (Receiver.start p).read (pinTrace (emitMicros m b)) =
      { pins := { sclk := false, sdin := b.getLsbD 0, dc := m.bit, sceN := true, rstN := p.rstN }
        samples := [], frames := [(m, b)], edges := 8, pulses := 0 } ∧
    busTime d (pinTrace (emitMicros m b)) =
      d .setup + 8 * (d .sclkLow + d .sclkHigh) + d .hold + d .gap

/-- R105, R290: the pin trace of any host command on an idle bus: a receiver reads exactly the frames the command puts
on the wire, eight clock edges each, and one reset pulse for INIT and none for the others. -/
def Obligations.CommandPinsReadBack : Prop :=
  ∀ (i : Instr) (s t : State), accepts i s = true → exec i s = .next t →
    s.pins.sceN = true → s.pins.sclk = false → s.pins.rstN = true →
    let r := (Receiver.start s.pins).read (pinTrace (scriptMicros (scriptOf i s)))
    framesOf t.trace = framesOf s.trace ++ r.frames ∧ r.pins = t.pins ∧
    r.edges = 8 * r.frames.length ∧ r.samples = [] ∧
    r.pulses = (match i with
      | .init _ => 1
      | .send _ _ => 0
      | .setaddr _ _ => 0
      | .write _ => 0
      | .flush => 0
      | .clear => 0
      | .setpx _ _ _ => 0
      | .getpx _ _ => 0
      | .fset _ _ _ => 0
      | .dctl _ _ => 0
      | .yaddr _ => 0
      | .xaddr _ => 0
      | .tempco _ => 0
      | .bias _ => 0
      | .vop _ => 0
      | .data _ => 0)

/-- R290: how many frames each accepted command emits. -/
def Obligations.CommandFrameCounts : Prop :=
  ∀ s : State, s.status.init = true →
    (∀ c, ∃ t, exec (.init c) s = .next t ∧ (framesOf t.trace).length = (framesOf s.trace).length + 5) ∧
    (∀ m v, ∃ t, exec (.send m v) s = .next t ∧ (framesOf t.trace).length = (framesOf s.trace).length + 1) ∧
    (∀ c b, ∃ t, exec (.setaddr c b) s = .next t ∧ (framesOf t.trace).length = (framesOf s.trace).length + 2) ∧
    (∀ v, ∃ t, exec (.write v) s = .next t ∧ (framesOf t.trace).length = (framesOf s.trace).length + 1) ∧
    (∃ t, exec .flush s = .next t ∧ (framesOf t.trace).length = (framesOf s.trace).length + 506) ∧
    (∃ t, exec .clear s = .next t ∧ t.trace = s.trace) ∧
    (∀ c x y, ∃ t, exec (.setpx c x y) s = .next t ∧ t.trace = s.trace) ∧
    (∀ x y, ∃ t, exec (.getpx x y) s = .next t ∧ t.trace = s.trace)

/-- R11, R105: the micro-steps of any script, run one by one, come to what its actions do as whole transitions. -/
def Obligations.MicrosRefineTransactions : Prop :=
  ∀ (as : List Action) (s : State), runMicros (scriptMicros as) s = runActions as s

/-- R61, R23, R11: a command inside which something from outside falls is begun, not run: BUSY is 1 and CUR its word from
its acceptance, and after any number of micro-steps, carrying out the rest ends exactly as the command run as a whole.
A command the block does not accept faults at once (R243). The cut after k micro-steps is the model's choice (log 14). -/
def Obligations.InterruptedCommandEndsAsWhole : Prop :=
  ∀ (i : Instr) (s : State),
    (∀ (w : Word) (k : Nat) (a : Act) (rest : List Input), decodeHost w = .ok i →
      s.inbox = ⟨.during k, a⟩ :: rest → s.held = none ∨ a = .blockReset → accept w s = .next (s.begin i)) ∧
    (accepts i s = false → s.begin i = s.raiseFault .notInitialized) ∧
    (accepts i s = true →
      (s.begin i).status.busy = true ∧ (s.begin i).cur = hostWord i ∧
      ∀ k, exec i s = .next { runMicros ((s.begin i).todo.drop k) (runMicros ((s.begin i).todo.take k) (s.begin i)) with
        todo := s.todo })

/-- R11, R22, R24, R25, R27, R124: while an accepted command executes, up to its last micro-step, a host sees BUSY = 1,
INIT = 0 if it is an INIT and 1 if not, and FAULT, CAUSE, RDATA and CONTRAST as they were: what it computes appears only
as BUSY falls. Where the micro-steps are cut is the model's choice (log 14, 29). -/
def Obligations.HostSeesOnlyBusy : Prop :=
  ∀ (i : Instr) (s : State) (k : Nat), accepts i s = true → k < (s.begin i).todo.length →
    let t := runMicros ((s.begin i).todo.take k) (s.begin i)
    t.status.busy = true ∧ (∀ c, i = .init c → t.status.init = false) ∧
    ((∀ c, i ≠ .init c) → t.status.init = true) ∧
    t.status.fault = s.status.fault ∧ t.status.cause = s.status.cause ∧
    t.rdata = s.rdata ∧ t.contrast = s.contrast

/-! ## What every step keeps -/

/-- R242: a fault sets FAULT, records its code if none is recorded, and has no other effect; FAULT and CAUSE are sticky:
no step but one that takes a block reset clears them, and a block reset does. -/
def Obligations.FaultStickyUntilBlockReset : Prop :=
  (∀ (c : Cause) (s : State), s.raiseFault c = { s with
    status := { s.status with fault := true, cause := if s.status.cause = 0#4 then c.code else s.status.cause } }) ∧
  (∀ s t : State, step s = .next t →
    t.draw = s.draw ∨ ∃ a rest, s.inbox = ⟨a, .blockReset⟩ :: rest ∧ t = ({ s with inbox := rest } : State).blockReset) ∧
  (∀ s t : State, step s = .next t → t.draw = s.draw →
    (s.status.fault = true → t.status.fault = true) ∧
    (s.status.cause ≠ 0#4 → t.status.cause = s.status.cause)) ∧
  ∀ s t : State, perform .blockReset s = .next t →
    t.draw = s.draw + 1 ∧ t.status.fault = false ∧ t.status.cause = 0#4

/-- Every step keeps the ranges of the state: the framebuffer and the display memory in canonical form, STATUS as R22 and
R241 allow it, the reserved bits of RDATA and CONTRAST at 0, the walk and the pointer in range. -/
def Obligations.StepKeepsRanges : Prop :=
  ∀ s t : State, s.Ranges → step s = .next t → t.Ranges

/-- The ranges hold after reset. -/
def Obligations.ResetInRanges : Prop := State.reset.Ranges

/-- Every step keeps BUSY truthful: BUSY = 0 is an idle block with idle pins, BUSY = 1 a command whose rest leads there. -/
def Obligations.StepKeepsBusyTrue : Prop :=
  ∀ s t : State, s.BusyTrue → step s = .next t → t.BusyTrue

/-- BUSY is truthful after reset. -/
def Obligations.ResetBusyTrue : Prop := State.reset.BusyTrue

/-- R216, R281: while every CMD write to come keeps the panel (no SEND; SETADDR in range), every step keeps this: whenever
STATUS.INIT is 1 with the running command done, the controller on the wire is in the normal set, in horizontal
addressing, powered up, its display mode normal and its pointer in range. A block reset clears STATUS.INIT, and nothing
is claimed from there to the next INIT. -/
def Obligations.StepKeepsPanelReady : Prop :=
  ∀ s t : State, s.BusyTrue → s.PanelReady → step s = .next t → t.PanelReady

/-- The panel invariant holds after reset, STATUS.INIT being 0. -/
def Obligations.ResetPanelReady : Prop := State.reset.PanelReady

/-- Every step keeps the controller equal to what observing the trace it has taken gives. -/
def Obligations.StepKeepsObserved : Prop :=
  ∀ s t : State, s.Observed → step s = .next t → t.Observed

/-- The controller after reset is what observing an empty trace gives. -/
def Obligations.ResetObserved : Prop := State.reset.Observed

/-- A truthful state never faults: with BusyTrue a step answers a next state, or refuses an access outside the
interface. -/
def Obligations.TruthfulStepNeverFaults : Prop :=
  ∀ s : State, s.BusyTrue → ∀ f, step s ≠ .fault f
end

