-- ==== Sys2Proof/Laws/Decode.lean ====
section
/-! SUPPORT. Laws/Decode.lean: the fields of a word put together from fields, and the coordinates' round trip. -/

namespace Sys2Proof

/-- A field inside the low part of a concatenation. -/
theorem extract_low {n m k : Nat} (a : BitVec n) (b : BitVec m) (lo : Nat) (h : lo + k ≤ m) :
    (a ++ b).extractLsb' lo k = b.extractLsb' lo k := by
  apply BitVec.eq_of_getLsbD_eq
  intro i hi
  simp only [BitVec.getLsbD_extractLsb', BitVec.getLsbD_append]
  simp [show lo + i < m by omega]

/-- A field inside the high part of a concatenation. -/
theorem extract_high {n m k : Nat} (a : BitVec n) (b : BitVec m) (lo : Nat) (h : m ≤ lo) :
    (a ++ b).extractLsb' lo k = a.extractLsb' (lo - m) k := by
  apply BitVec.eq_of_getLsbD_eq
  intro i hi
  simp only [BitVec.getLsbD_extractLsb', BitVec.getLsbD_append]
  simp [show ¬ (lo + i < m) by omega, show lo + i - m = lo - m + i by omega]

/-- The whole of a vector as a field. -/
theorem extract_whole {n : Nat} (a : BitVec n) : a.extractLsb' 0 n = a := by simp

/-- A coordinate in range survives its 12-bit field (R77, R78). -/
theorem coord_toInt_ofInt {x : Int} (h : coordFits x = true) : (BitVec.ofInt 12 x).toInt = x := by
  simp only [coordFits, Bool.and_eq_true, decide_eq_true_eq] at h
  rw [BitVec.toInt_ofInt]
  simp [Int.bmod]
  omega

/-- Every 12-bit field is a coordinate in range (R77). -/
theorem coordFits_toInt (x : BitVec 12) : coordFits x.toInt = true := by
  have h1 := x.toInt_lt
  have h2 := x.le_toInt
  norm_num at h1 h2
  simp [coordFits]
  omega

/-- The bit of a colour read back from a bit (R77). -/
theorem Color.bit_ofBit (b : Bool) : (Color.ofBit b).bit = b := by cases b <;> rfl

/-- The colour of a colour's bit (R77). -/
theorem Color.ofBit_bit (c : Color) : Color.ofBit c.bit = c := by cases c <;> rfl

/-- The bit of a mode read back from a bit (R73). -/
theorem Mode.bit_ofBit (b : Bool) : (Mode.ofBit b).bit = b := by cases b <;> rfl

/-- The mode of a mode's bit (R73). -/
theorem Mode.ofBit_bit (m : Mode) : Mode.ofBit m.bit = m := by cases m <;> rfl

end Sys2Proof
end

