-- ==== Sys2Proof/Laws/Memory.lean ====
section
/-! SUPPORT. Laws/Memory.lean: the laws of the byte memory, and that its one writing operation keeps the canonical form. -/

namespace Sys2Proof.Machine

theorem Memory.read_write_same (m : Memory) (i : Nat) (v : Byte) : (Memory.write m i v).read i = some v := by
  induction m with
  | nil => simp [Memory.write, Memory.read]
  | cons c rest ih =>
    obtain ⟨k, b⟩ := c
    simp only [Memory.write]
    split
    · simp [Memory.read]
    · split
      · simp [Memory.read]
      · rename_i h
        simp [Memory.read, Ne.symm h, ih]

theorem Memory.read_write_ne (m : Memory) {i j : Nat} (v : Byte) (h : j ≠ i) :
    (Memory.write m i v).read j = m.read j := by
  induction m with
  | nil => simp [Memory.write, Memory.read, Ne.symm h]
  | cons c rest ih =>
    obtain ⟨k, b⟩ := c
    simp only [Memory.write]
    split
    · simp [Memory.read, Ne.symm h]
    · split
      · rename_i hk
        subst hk
        simp [Memory.read, Ne.symm h]
      · simp [Memory.read, ih]

/-- Read after write, everywhere. -/
theorem Memory.read_write (m : Memory) (i j : Nat) (v : Byte) :
    (Memory.write m i v).read j = if j = i then some v else m.read j := by
  split
  · rename_i h
    rw [h, Memory.read_write_same]
  · rename_i h
    exact Memory.read_write_ne m v h

theorem Memory.write_write_same (m : Memory) (i : Nat) (v w : Byte) :
    (Memory.write m i v).write i w = m.write i w := by
  induction m with
  | nil => simp [Memory.write]
  | cons c rest ih =>
    obtain ⟨k, b⟩ := c
    simp only [Memory.write]
    split
    · simp [Memory.write]
    · split
      · simp [Memory.write]
      · rename_i h1 h2
        simp [Memory.write, h1, h2, ih]

theorem Memory.wfFrom_write (m : Memory) {lo size i : Nat} (v : Byte) (hm : Memory.wfFrom lo size m = true)
    (hlo : lo ≤ i) (hi : i < size) : Memory.wfFrom lo size (m.write i v) = true := by
  induction m generalizing lo with
  | nil => simp [Memory.write, Memory.wfFrom, hlo, hi]
  | cons c rest ih =>
    obtain ⟨k, b⟩ := c
    simp only [Memory.wfFrom, Bool.and_eq_true, decide_eq_true_eq] at hm
    obtain ⟨⟨h1, h2⟩, h3⟩ := hm
    simp only [Memory.write]
    split
    · rename_i hlt
      simp [Memory.wfFrom, hlo, hi, h2, h3]
      omega
    · split
      · rename_i heq
        subst heq
        simp [Memory.wfFrom, hlo, hi, h3]
      · simp only [Memory.wfFrom, Bool.and_eq_true, decide_eq_true_eq]
        exact ⟨⟨h1, h2⟩, ih h3 (by omega)⟩

/-- Writing inside the 504 bytes keeps the canonical form. -/
theorem Memory.wf_write (m : Memory) {i : Nat} (v : Byte) (hm : m.wf = true) (hi : i < 504) :
    Memory.wf (m.write i v) = true := Memory.wfFrom_write m v hm (Nat.zero_le i) hi

/-- The memories of the reset state are in canonical form. -/
theorem State.reset_fb_wf : State.reset.fb.wf = true := rfl

/-- A framebuffer byte after a write. -/
theorem State.fbRead_store (s : State) (i j : Nat) (v : Byte) :
    ({ s with fb := s.fb.write i v } : State).fbRead j = if j = i then v else s.fbRead j := by
  simp only [State.fbRead, Memory.read_write]
  split <;> rfl

end Sys2Proof.Machine
end

