-- ==== Sys2Proof/Laws/State.lean ====
section
/-! SUPPORT. Laws/State.lean: the small lemmas of the shared operations, field by field, so that no proof unfolds a
record update. -/

namespace Sys2Proof.Machine

/-! ## A whole frame -/

@[simp] theorem State.emit_par (m : Mode) (b : Byte) (s : State) : (s.emit m b).par = s.par := rfl
@[simp] theorem State.emit_status (m : Mode) (b : Byte) (s : State) : (s.emit m b).status = s.status := rfl
@[simp] theorem State.emit_rdata (m : Mode) (b : Byte) (s : State) : (s.emit m b).rdata = s.rdata := rfl
@[simp] theorem State.emit_contrast (m : Mode) (b : Byte) (s : State) : (s.emit m b).contrast = s.contrast := rfl
@[simp] theorem State.emit_cur (m : Mode) (b : Byte) (s : State) : (s.emit m b).cur = s.cur := rfl
@[simp] theorem State.emit_seqBank (m : Mode) (b : Byte) (s : State) : (s.emit m b).seqBank = s.seqBank := rfl
@[simp] theorem State.emit_seqCol (m : Mode) (b : Byte) (s : State) : (s.emit m b).seqCol = s.seqCol := rfl
@[simp] theorem State.emit_shift (m : Mode) (b : Byte) (s : State) : (s.emit m b).shift = b := rfl
@[simp] theorem State.emit_bitcnt (m : Mode) (b : Byte) (s : State) : (s.emit m b).bitcnt = 8 := rfl
@[simp] theorem State.emit_fb (m : Mode) (b : Byte) (s : State) : (s.emit m b).fb = s.fb := rfl
@[simp] theorem State.emit_draw (m : Mode) (b : Byte) (s : State) : (s.emit m b).draw = s.draw := rfl
@[simp] theorem State.emit_pins (m : Mode) (b : Byte) (s : State) : (s.emit m b).pins = { s.pins with sclk := false, sdin := b.getLsbD 0, dc := m.bit, sceN := true } := rfl
@[simp] theorem State.emit_todo (m : Mode) (b : Byte) (s : State) : (s.emit m b).todo = s.todo := rfl
@[simp] theorem State.emit_held (m : Mode) (b : Byte) (s : State) : (s.emit m b).held = s.held := rfl
@[simp] theorem State.emit_inbox (m : Mode) (b : Byte) (s : State) : (s.emit m b).inbox = s.inbox := rfl
@[simp] theorem State.emit_replies (m : Mode) (b : Byte) (s : State) : (s.emit m b).replies = s.replies := rfl
@[simp] theorem State.emit_pending (m : Mode) (b : Byte) (s : State) : (s.emit m b).pending = s.pending ++ [.frame m b] := rfl
@[simp] theorem State.emit_heard (m : Mode) (b : Byte) (s : State) : (s.emit m b).heard = s.heard := rfl
@[simp] theorem State.emit_lcd (m : Mode) (b : Byte) (s : State) : (s.emit m b).lcd = s.lcd := rfl

/-! ## A whole reset pulse -/

@[simp] theorem State.pulse_par (s : State) : (s.pulse).par = s.par := rfl
@[simp] theorem State.pulse_status (s : State) : (s.pulse).status = s.status := rfl
@[simp] theorem State.pulse_rdata (s : State) : (s.pulse).rdata = s.rdata := rfl
@[simp] theorem State.pulse_contrast (s : State) : (s.pulse).contrast = s.contrast := rfl
@[simp] theorem State.pulse_cur (s : State) : (s.pulse).cur = s.cur := rfl
@[simp] theorem State.pulse_seqBank (s : State) : (s.pulse).seqBank = s.seqBank := rfl
@[simp] theorem State.pulse_seqCol (s : State) : (s.pulse).seqCol = s.seqCol := rfl
@[simp] theorem State.pulse_shift (s : State) : (s.pulse).shift = s.shift := rfl
@[simp] theorem State.pulse_bitcnt (s : State) : (s.pulse).bitcnt = s.bitcnt := rfl
@[simp] theorem State.pulse_fb (s : State) : (s.pulse).fb = s.fb := rfl
@[simp] theorem State.pulse_draw (s : State) : (s.pulse).draw = s.draw := rfl
@[simp] theorem State.pulse_pins (s : State) : (s.pulse).pins = { s.pins with rstN := true } := rfl
@[simp] theorem State.pulse_todo (s : State) : (s.pulse).todo = s.todo := rfl
@[simp] theorem State.pulse_held (s : State) : (s.pulse).held = s.held := rfl
@[simp] theorem State.pulse_inbox (s : State) : (s.pulse).inbox = s.inbox := rfl
@[simp] theorem State.pulse_replies (s : State) : (s.pulse).replies = s.replies := rfl
@[simp] theorem State.pulse_pending (s : State) : (s.pulse).pending = s.pending ++ [.resetPulse] := rfl
@[simp] theorem State.pulse_heard (s : State) : (s.pulse).heard = s.heard := rfl
@[simp] theorem State.pulse_lcd (s : State) : (s.pulse).lcd = s.lcd := rfl

/-! ## A fault -/

@[simp] theorem State.raiseFault_par (c : Cause) (s : State) : (s.raiseFault c).par = s.par := rfl
@[simp] theorem State.raiseFault_status (c : Cause) (s : State) : (s.raiseFault c).status = s.status.record c := rfl
@[simp] theorem State.raiseFault_rdata (c : Cause) (s : State) : (s.raiseFault c).rdata = s.rdata := rfl
@[simp] theorem State.raiseFault_contrast (c : Cause) (s : State) : (s.raiseFault c).contrast = s.contrast := rfl
@[simp] theorem State.raiseFault_cur (c : Cause) (s : State) : (s.raiseFault c).cur = s.cur := rfl
@[simp] theorem State.raiseFault_seqBank (c : Cause) (s : State) : (s.raiseFault c).seqBank = s.seqBank := rfl
@[simp] theorem State.raiseFault_seqCol (c : Cause) (s : State) : (s.raiseFault c).seqCol = s.seqCol := rfl
@[simp] theorem State.raiseFault_shift (c : Cause) (s : State) : (s.raiseFault c).shift = s.shift := rfl
@[simp] theorem State.raiseFault_bitcnt (c : Cause) (s : State) : (s.raiseFault c).bitcnt = s.bitcnt := rfl
@[simp] theorem State.raiseFault_fb (c : Cause) (s : State) : (s.raiseFault c).fb = s.fb := rfl
@[simp] theorem State.raiseFault_draw (c : Cause) (s : State) : (s.raiseFault c).draw = s.draw := rfl
@[simp] theorem State.raiseFault_pins (c : Cause) (s : State) : (s.raiseFault c).pins = s.pins := rfl
@[simp] theorem State.raiseFault_todo (c : Cause) (s : State) : (s.raiseFault c).todo = s.todo := rfl
@[simp] theorem State.raiseFault_held (c : Cause) (s : State) : (s.raiseFault c).held = s.held := rfl
@[simp] theorem State.raiseFault_inbox (c : Cause) (s : State) : (s.raiseFault c).inbox = s.inbox := rfl
@[simp] theorem State.raiseFault_replies (c : Cause) (s : State) : (s.raiseFault c).replies = s.replies := rfl
@[simp] theorem State.raiseFault_pending (c : Cause) (s : State) : (s.raiseFault c).pending = s.pending := rfl
@[simp] theorem State.raiseFault_heard (c : Cause) (s : State) : (s.raiseFault c).heard = s.heard := rfl
@[simp] theorem State.raiseFault_lcd (c : Cause) (s : State) : (s.raiseFault c).lcd = s.lcd := rfl

/-! ## The block reset -/

@[simp] theorem State.blockReset_par (s : State) : (s.blockReset).par = s.par := rfl
@[simp] theorem State.blockReset_status (s : State) : (s.blockReset).status = Status.reset := rfl
@[simp] theorem State.blockReset_rdata (s : State) : (s.blockReset).rdata = 0#32 := rfl
@[simp] theorem State.blockReset_contrast (s : State) : (s.blockReset).contrast = 0#32 := rfl
@[simp] theorem State.blockReset_cur (s : State) : (s.blockReset).cur = 0#32 := rfl
@[simp] theorem State.blockReset_seqBank (s : State) : (s.blockReset).seqBank = 0 := rfl
@[simp] theorem State.blockReset_seqCol (s : State) : (s.blockReset).seqCol = 0 := rfl
@[simp] theorem State.blockReset_shift (s : State) : (s.blockReset).shift = 0#8 := rfl
@[simp] theorem State.blockReset_bitcnt (s : State) : (s.blockReset).bitcnt = 0 := rfl
@[simp] theorem State.blockReset_fb (s : State) : (s.blockReset).fb = [] := rfl
@[simp] theorem State.blockReset_draw (s : State) : (s.blockReset).draw = s.draw + 1 := rfl
@[simp] theorem State.blockReset_pins (s : State) : (s.blockReset).pins = Pins.reset := rfl
@[simp] theorem State.blockReset_todo (s : State) : (s.blockReset).todo = [] := rfl
@[simp] theorem State.blockReset_held (s : State) : (s.blockReset).held = none := rfl
@[simp] theorem State.blockReset_inbox (s : State) : (s.blockReset).inbox = s.inbox := rfl
@[simp] theorem State.blockReset_replies (s : State) : (s.blockReset).replies = s.replies := rfl
@[simp] theorem State.blockReset_pending (s : State) : (s.blockReset).pending = s.pending ++ (if s.pins.sceN then [] else [.cut]) ++ [.blockReset] := rfl
@[simp] theorem State.blockReset_heard (s : State) : (s.blockReset).heard = s.heard := rfl
@[simp] theorem State.blockReset_lcd (s : State) : (s.blockReset).lcd = s.lcd := rfl

/-! ## A command's completion -/

@[simp] theorem Finish.run_plain (s : State) : Finish.plain.run s = s := rfl
@[simp] theorem Finish.run_rdata_eq (v : Word) (s : State) : (Finish.rdata v).run s = { s with rdata := v } := rfl
@[simp] theorem Finish.run_init (c : BitVec 7) (s : State) :
    (Finish.init c).run s = { s with contrast := c.setWidth 32, status := { s.status with init := true } } := rfl
@[simp] theorem Finish.run_par (f : Finish) (s : State) : (f.run s).par = s.par := by cases f <;> rfl
@[simp] theorem Finish.run_cur (f : Finish) (s : State) : (f.run s).cur = s.cur := by cases f <;> rfl
@[simp] theorem Finish.run_seqBank (f : Finish) (s : State) : (f.run s).seqBank = s.seqBank := by cases f <;> rfl
@[simp] theorem Finish.run_seqCol (f : Finish) (s : State) : (f.run s).seqCol = s.seqCol := by cases f <;> rfl
@[simp] theorem Finish.run_shift (f : Finish) (s : State) : (f.run s).shift = s.shift := by cases f <;> rfl
@[simp] theorem Finish.run_bitcnt (f : Finish) (s : State) : (f.run s).bitcnt = s.bitcnt := by cases f <;> rfl
@[simp] theorem Finish.run_fb (f : Finish) (s : State) : (f.run s).fb = s.fb := by cases f <;> rfl
@[simp] theorem Finish.run_draw (f : Finish) (s : State) : (f.run s).draw = s.draw := by cases f <;> rfl
@[simp] theorem Finish.run_pins (f : Finish) (s : State) : (f.run s).pins = s.pins := by cases f <;> rfl
@[simp] theorem Finish.run_todo (f : Finish) (s : State) : (f.run s).todo = s.todo := by cases f <;> rfl
@[simp] theorem Finish.run_held (f : Finish) (s : State) : (f.run s).held = s.held := by cases f <;> rfl
@[simp] theorem Finish.run_inbox (f : Finish) (s : State) : (f.run s).inbox = s.inbox := by cases f <;> rfl
@[simp] theorem Finish.run_replies (f : Finish) (s : State) : (f.run s).replies = s.replies := by cases f <;> rfl
@[simp] theorem Finish.run_pending (f : Finish) (s : State) : (f.run s).pending = s.pending := by cases f <;> rfl
@[simp] theorem Finish.run_heard (f : Finish) (s : State) : (f.run s).heard = s.heard := by cases f <;> rfl
@[simp] theorem Finish.run_lcd (f : Finish) (s : State) : (f.run s).lcd = s.lcd := by cases f <;> rfl
@[simp] theorem Finish.run_busy (f : Finish) (s : State) : (f.run s).status.busy = s.status.busy := by cases f <;> rfl
@[simp] theorem Finish.run_fault (f : Finish) (s : State) : (f.run s).status.fault = s.status.fault := by cases f <;> rfl
@[simp] theorem Finish.run_cause (f : Finish) (s : State) : (f.run s).status.cause = s.status.cause := by cases f <;> rfl

/-! ## What no micro-step, action or script touches -/

@[simp] theorem Micro.run_par (m : Micro) (s : State) : (m.run s).par = s.par := by
  cases m <;> simp [Micro.run]
@[simp] theorem Micro.run_draw (m : Micro) (s : State) : (m.run s).draw = s.draw := by
  cases m <;> simp [Micro.run]
@[simp] theorem Micro.run_todo (m : Micro) (s : State) : (m.run s).todo = s.todo := by
  cases m <;> simp [Micro.run]
@[simp] theorem Micro.run_held (m : Micro) (s : State) : (m.run s).held = s.held := by
  cases m <;> simp [Micro.run]
@[simp] theorem Micro.run_inbox (m : Micro) (s : State) : (m.run s).inbox = s.inbox := by
  cases m <;> simp [Micro.run]
@[simp] theorem Micro.run_replies (m : Micro) (s : State) : (m.run s).replies = s.replies := by
  cases m <;> simp [Micro.run]
@[simp] theorem Micro.run_heard (m : Micro) (s : State) : (m.run s).heard = s.heard := by
  cases m <;> simp [Micro.run]
@[simp] theorem Micro.run_lcd (m : Micro) (s : State) : (m.run s).lcd = s.lcd := by
  cases m <;> simp [Micro.run]

@[simp] theorem Action.run_par (a : Action) (s : State) : (a.run s).par = s.par := by
  cases a <;> simp [Action.run]
@[simp] theorem Action.run_draw (a : Action) (s : State) : (a.run s).draw = s.draw := by
  cases a <;> simp [Action.run]
@[simp] theorem Action.run_todo (a : Action) (s : State) : (a.run s).todo = s.todo := by
  cases a <;> simp [Action.run]
@[simp] theorem Action.run_held (a : Action) (s : State) : (a.run s).held = s.held := by
  cases a <;> simp [Action.run]
@[simp] theorem Action.run_inbox (a : Action) (s : State) : (a.run s).inbox = s.inbox := by
  cases a <;> simp [Action.run]
@[simp] theorem Action.run_replies (a : Action) (s : State) : (a.run s).replies = s.replies := by
  cases a <;> simp [Action.run]
@[simp] theorem Action.run_heard (a : Action) (s : State) : (a.run s).heard = s.heard := by
  cases a <;> simp [Action.run]
@[simp] theorem Action.run_lcd (a : Action) (s : State) : (a.run s).lcd = s.lcd := by
  cases a <;> simp [Action.run]

@[simp] theorem runMicros_par (ms : List Micro) (s : State) : (runMicros ms s).par = s.par := by
  induction ms generalizing s with
  | nil => rfl
  | cons m ms ih => rw [runMicros, List.foldl_cons, ← runMicros, ih, Micro.run_par]
@[simp] theorem runMicros_draw (ms : List Micro) (s : State) : (runMicros ms s).draw = s.draw := by
  induction ms generalizing s with
  | nil => rfl
  | cons m ms ih => rw [runMicros, List.foldl_cons, ← runMicros, ih, Micro.run_draw]
@[simp] theorem runMicros_todo (ms : List Micro) (s : State) : (runMicros ms s).todo = s.todo := by
  induction ms generalizing s with
  | nil => rfl
  | cons m ms ih => rw [runMicros, List.foldl_cons, ← runMicros, ih, Micro.run_todo]
@[simp] theorem runMicros_held (ms : List Micro) (s : State) : (runMicros ms s).held = s.held := by
  induction ms generalizing s with
  | nil => rfl
  | cons m ms ih => rw [runMicros, List.foldl_cons, ← runMicros, ih, Micro.run_held]
@[simp] theorem runMicros_inbox (ms : List Micro) (s : State) : (runMicros ms s).inbox = s.inbox := by
  induction ms generalizing s with
  | nil => rfl
  | cons m ms ih => rw [runMicros, List.foldl_cons, ← runMicros, ih, Micro.run_inbox]
@[simp] theorem runMicros_replies (ms : List Micro) (s : State) : (runMicros ms s).replies = s.replies := by
  induction ms generalizing s with
  | nil => rfl
  | cons m ms ih => rw [runMicros, List.foldl_cons, ← runMicros, ih, Micro.run_replies]
@[simp] theorem runMicros_heard (ms : List Micro) (s : State) : (runMicros ms s).heard = s.heard := by
  induction ms generalizing s with
  | nil => rfl
  | cons m ms ih => rw [runMicros, List.foldl_cons, ← runMicros, ih, Micro.run_heard]
@[simp] theorem runMicros_lcd (ms : List Micro) (s : State) : (runMicros ms s).lcd = s.lcd := by
  induction ms generalizing s with
  | nil => rfl
  | cons m ms ih => rw [runMicros, List.foldl_cons, ← runMicros, ih, Micro.run_lcd]

@[simp] theorem runActions_par (as : List Action) (s : State) : (runActions as s).par = s.par := by
  induction as generalizing s with
  | nil => rfl
  | cons a as ih => rw [runActions, List.foldl_cons, ← runActions, ih, Action.run_par]
@[simp] theorem runActions_draw (as : List Action) (s : State) : (runActions as s).draw = s.draw := by
  induction as generalizing s with
  | nil => rfl
  | cons a as ih => rw [runActions, List.foldl_cons, ← runActions, ih, Action.run_draw]
@[simp] theorem runActions_todo (as : List Action) (s : State) : (runActions as s).todo = s.todo := by
  induction as generalizing s with
  | nil => rfl
  | cons a as ih => rw [runActions, List.foldl_cons, ← runActions, ih, Action.run_todo]
@[simp] theorem runActions_held (as : List Action) (s : State) : (runActions as s).held = s.held := by
  induction as generalizing s with
  | nil => rfl
  | cons a as ih => rw [runActions, List.foldl_cons, ← runActions, ih, Action.run_held]
@[simp] theorem runActions_inbox (as : List Action) (s : State) : (runActions as s).inbox = s.inbox := by
  induction as generalizing s with
  | nil => rfl
  | cons a as ih => rw [runActions, List.foldl_cons, ← runActions, ih, Action.run_inbox]
@[simp] theorem runActions_replies (as : List Action) (s : State) : (runActions as s).replies = s.replies := by
  induction as generalizing s with
  | nil => rfl
  | cons a as ih => rw [runActions, List.foldl_cons, ← runActions, ih, Action.run_replies]
@[simp] theorem runActions_heard (as : List Action) (s : State) : (runActions as s).heard = s.heard := by
  induction as generalizing s with
  | nil => rfl
  | cons a as ih => rw [runActions, List.foldl_cons, ← runActions, ih, Action.run_heard]
@[simp] theorem runActions_lcd (as : List Action) (s : State) : (runActions as s).lcd = s.lcd := by
  induction as generalizing s with
  | nil => rfl
  | cons a as ih => rw [runActions, List.foldl_cons, ← runActions, ih, Action.run_lcd]

/-! ## Lists of micro-steps and actions -/

theorem runMicros_nil (s : State) : runMicros [] s = s := rfl

theorem runMicros_cons (m : Micro) (ms : List Micro) (s : State) : runMicros (m :: ms) s = runMicros ms (m.run s) := rfl

theorem runMicros_append (as bs : List Micro) (s : State) : runMicros (as ++ bs) s = runMicros bs (runMicros as s) :=
  List.foldl_append

theorem runActions_nil (s : State) : runActions [] s = s := rfl

theorem runActions_cons (a : Action) (as : List Action) (s : State) :
    runActions (a :: as) s = runActions as (a.run s) := rfl

theorem runActions_append (as bs : List Action) (s : State) : runActions (as ++ bs) s = runActions bs (runActions as s) :=
  List.foldl_append

end Sys2Proof.Machine
end

