-- ==== Sys2Proof/Laws/Micros.lean ====
section
/-! SUPPORT. Laws/Micros.lean: running micro-steps neither reads nor writes what is outside the block, and never changes a
recorded fault. -/

namespace Sys2Proof.Machine

/-- A micro-step does not look at the rest of the command, the host's side or the controller. -/
theorem Micro.run_outside (m : Micro) (s : State) (td : List Micro) (h : Option Word) (i : List Input)
    (r : List Word) (hd : List WireEvent) (l : Lcd) :
    m.run { s with todo := td, held := h, inbox := i, replies := r, heard := hd, lcd := l } =
      { m.run s with todo := td, held := h, inbox := i, replies := r, heard := hd, lcd := l } := by
  cases m with
  | done f => cases f <;> rfl
  | _ => rfl

/-- Micro-steps do not look at the rest of the command, the host's side or the controller. -/
theorem runMicros_outside (ms : List Micro) (s : State) (td : List Micro) (h : Option Word) (i : List Input)
    (r : List Word) (hd : List WireEvent) (l : Lcd) :
    runMicros ms { s with todo := td, held := h, inbox := i, replies := r, heard := hd, lcd := l } =
      { runMicros ms s with todo := td, held := h, inbox := i, replies := r, heard := hd, lcd := l } := by
  induction ms generalizing s with
  | nil => rfl
  | cons m ms ih => rw [runMicros_cons, Micro.run_outside, ih, runMicros_cons]

/-- No micro-step records or clears a fault. -/
theorem Micro.run_fault (m : Micro) (s : State) :
    (m.run s).status.fault = s.status.fault ∧ (m.run s).status.cause = s.status.cause := by
  cases m <;> simp [Micro.run]

/-- Micro-steps keep the recorded fault. -/
theorem runMicros_fault (ms : List Micro) (s : State) :
    (runMicros ms s).status.fault = s.status.fault ∧ (runMicros ms s).status.cause = s.status.cause := by
  induction ms generalizing s with
  | nil => exact ⟨rfl, rfl⟩
  | cons m ms ih =>
    rw [runMicros_cons]
    exact ⟨(ih _).1.trans (Micro.run_fault m s).1, (ih _).2.trans (Micro.run_fault m s).2⟩

/-- Micro-steps only add to the wire. -/
theorem runMicros_pending (ms : List Micro) (s : State) : ∃ es, (runMicros ms s).pending = s.pending ++ es := by
  induction ms generalizing s with
  | nil => exact ⟨[], by simp [runMicros]⟩
  | cons m ms ih =>
    rw [runMicros_cons]
    obtain ⟨es, h⟩ := ih (m.run s)
    have hm : ∃ ds, (m.run s).pending = s.pending ++ ds := by
      cases m <;> first | exact ⟨_, rfl⟩ | exact ⟨[], by simp [Micro.run]⟩
    obtain ⟨ds, hd⟩ := hm
    exact ⟨ds ++ es, by rw [h, hd, List.append_assoc]⟩

end Sys2Proof.Machine
end

