-- ==== Sys2Proof/Laws/PerInstr.lean ====
section
/-! SUPPORT. Laws/PerInstr.lean: for each instruction, that its encoding has the fixed bits of its row of
spec/opcode_table.json. -/

namespace Sys2Proof.Laws.EncodesRow

/-- The fixed fields of the instruction's row of the opcode table: lowest bit, width, value. -/
def fixedFields : Instr → List (Nat × Nat × Nat)
  | .init _ => [(8, 24, 0x100000)]
  | .send _ _ => [(9, 23, 0x100000)]
  | .setaddr _ _ => [(3, 5, 0), (15, 17, 0x6000)]
  | .write _ => [(8, 24, 0x400000)]
  | .flush => [(0, 32, 0x50000000)]
  | .clear => [(0, 32, 0x60000000)]
  | .setpx _ _ _ => [(25, 7, 0x38)]
  | .getpx _ _ => [(24, 8, 0x80)]
  | .fset _ _ _ => [(3, 6, 4)]
  | .dctl _ _ => [(1, 1, 0), (3, 6, 1)]
  | .yaddr _ => [(3, 6, 8)]
  | .xaddr _ => [(7, 2, 1)]
  | .tempco _ => [(2, 7, 1)]
  | .bias _ => [(3, 6, 2)]
  | .vop _ => [(7, 2, 1)]
  | .data _ => [(8, 1, 1)]

/-- A code has a fixed field's value. -/
def hasField (c : Code) (f : Nat × Nat × Nat) : Prop :=
  match c with
  | .host w => (w.extractLsb' f.1 f.2.1).toNat = f.2.2
  | .frame v => (v.extractLsb' f.1 f.2.1).toNat = f.2.2

/-- Every fixed field of the row stands in the encoding. -/
def Statement (i : Instr) : Prop := ∀ f ∈ fixedFields i, hasField (encode i) f

theorem init (c : Byte) : Statement (.init c) := by
  intro f hf
  simp only [fixedFields, List.mem_singleton] at hf
  subst hf
  simp only [hasField, encode]
  rw [extract_high _ _ _ (by decide)]
  decide

theorem send (m : Mode) (v : Byte) : Statement (.send m v) := by
  intro f hf
  simp only [fixedFields, List.mem_singleton] at hf
  subst hf
  simp only [hasField, encode]
  rw [extract_high _ _ _ (by decide), extract_high _ _ _ (by decide)]
  decide

theorem setaddr (col : BitVec 7) (bank : BitVec 3) : Statement (.setaddr col bank) := by
  intro f hf
  simp only [fixedFields, List.mem_cons, List.not_mem_nil, or_false] at hf
  rcases hf with rfl | rfl
  · simp only [hasField, encode]
    rw [extract_high _ _ _ (by decide), extract_low _ _ _ (by decide)]
    decide
  · simp only [hasField, encode]
    rw [extract_high _ _ _ (by decide), extract_high _ _ _ (by decide), extract_high _ _ _ (by decide)]
    decide

theorem write (v : Byte) : Statement (.write v) := by
  intro f hf
  simp only [fixedFields, List.mem_singleton] at hf
  subst hf
  simp only [hasField, encode]
  rw [extract_high _ _ _ (by decide)]
  decide

theorem flush : Statement .flush := by
  intro f hf
  simp only [fixedFields, List.mem_singleton] at hf
  subst hf
  simp only [hasField, encode]
  decide

theorem clear : Statement .clear := by
  intro f hf
  simp only [fixedFields, List.mem_singleton] at hf
  subst hf
  simp only [hasField, encode]
  decide

theorem setpx (c : Color) (x y : Int) : Statement (.setpx c x y) := by
  intro f hf
  simp only [fixedFields, List.mem_singleton] at hf
  subst hf
  simp only [hasField, encode]
  rw [extract_high _ _ _ (by decide), extract_high _ _ _ (by decide), extract_high _ _ _ (by decide)]
  decide

theorem getpx (x y : Int) : Statement (.getpx x y) := by
  intro f hf
  simp only [fixedFields, List.mem_singleton] at hf
  subst hf
  simp only [hasField, encode]
  rw [extract_high _ _ _ (by decide), extract_high _ _ _ (by decide)]
  decide

theorem fset (pd v h : Bool) : Statement (.fset pd v h) := by
  intro f hf
  simp only [fixedFields, List.mem_singleton] at hf
  subst hf
  simp only [hasField, encode]
  revert pd v h
  decide

theorem dctl (d e : Bool) : Statement (.dctl d e) := by
  intro f hf
  simp only [fixedFields, List.mem_cons, List.not_mem_nil, or_false] at hf
  rcases hf with rfl | rfl <;> simp only [hasField, encode] <;> revert d e <;> decide

theorem yaddr (bank : BitVec 3) : Statement (.yaddr bank) := by
  intro f hf
  simp only [fixedFields, List.mem_singleton] at hf
  subst hf
  simp only [hasField, encode]
  rw [extract_high _ _ _ (by decide)]
  decide

theorem xaddr (col : BitVec 7) : Statement (.xaddr col) := by
  intro f hf
  simp only [fixedFields, List.mem_singleton] at hf
  subst hf
  simp only [hasField, encode]
  rw [extract_high _ _ _ (by decide)]
  decide

theorem tempco (tc : BitVec 2) : Statement (.tempco tc) := by
  intro f hf
  simp only [fixedFields, List.mem_singleton] at hf
  subst hf
  simp only [hasField, encode]
  rw [extract_high _ _ _ (by decide)]
  decide

theorem bias (bs : BitVec 3) : Statement (.bias bs) := by
  intro f hf
  simp only [fixedFields, List.mem_singleton] at hf
  subst hf
  simp only [hasField, encode]
  rw [extract_high _ _ _ (by decide)]
  decide

theorem vop (v : BitVec 7) : Statement (.vop v) := by
  intro f hf
  simp only [fixedFields, List.mem_singleton] at hf
  subst hf
  simp only [hasField, encode]
  rw [extract_high _ _ _ (by decide)]
  decide

theorem data (d : Byte) : Statement (.data d) := by
  intro f hf
  simp only [fixedFields, List.mem_singleton] at hf
  subst hf
  simp only [hasField, encode]
  rw [extract_high _ _ _ (by decide)]
  decide

end Sys2Proof.Laws.EncodesRow
end

