-- ==== Sys2Proof/Laws/Step.lean ====
section
/-! SUPPORT. Laws/Step.lean: everything each shared operation of the machine can do, said once. -/

namespace Sys2Proof.Machine

/-- A guarded command answers a next state: its whole script, or the recorded fault. -/
theorem State.command_next {s t : State} {as : List Action} (h : s.command as = .next t) :
    (s.status.init = true ∧ t = runActions as s) ∨ (s.status.init = false ∧ t = s.raiseFault .notInitialized) := by
  unfold State.command at h
  split at h <;> rename_i hi
  · exact .inl ⟨hi, (Host.Outcome.next.inj h).symm⟩
  · exact .inr ⟨by simpa using hi, (Host.Outcome.next.inj h).symm⟩

/-- A guarded command always answers a next state. -/
theorem State.command_eq (as : List Action) (s : State) :
    s.command as = .next (if s.status.init then runActions as s else s.raiseFault .notInitialized) := by
  unfold State.command
  split <;> rfl

/-- A host command as a whole: its script if the block accepts it, else NOT_INITIALIZED recorded. -/
theorem exec_host {i : Instr} (hi : i.isHost = true) (s : State) :
    exec i s = .next (if accepts i s then runActions (scriptOf i s) s else s.raiseFault .notInitialized) := by
  cases i
  case init => rfl
  case send => exact State.command_eq _ s
  case setaddr => exact State.command_eq _ s
  case write => exact State.command_eq _ s
  case flush => exact State.command_eq _ s
  case clear => exact State.command_eq _ s
  case setpx => exact State.command_eq _ s
  case getpx => exact State.command_eq _ s
  all_goals cases hi

/-- A wire frame changes the controller only. -/
theorem exec_wire {i : Instr} (hi : i.isHost = false) (s : State) : ∃ l, exec i s = .next { s with lcd := l } := by
  cases i <;> first
    | (simp [Instr.isHost] at hi; done)
    | exact ⟨_, rfl⟩

/-- Every instruction answers a next state. -/
theorem exec_next (i : Instr) (s : State) : ∃ t, exec i s = .next t := by
  cases hi : i.isHost
  · obtain ⟨l, h⟩ := exec_wire hi s
    exact ⟨_, h⟩
  · exact ⟨_, exec_host hi s⟩

theorem decodeHost_isHost {w : Word} {i : Instr} (h : decodeHost w = .ok i) : i.isHost = true := by
  unfold decodeHost decodeInit decodeSend decodeSetaddr decodeWrite decodeFlush decodeClear decodeSetpx decodeGetpx at h
  repeat' split at h
  all_goals first
    | (simp at h; done)
    | (simp only [Except.ok.injEq] at h; subst h; rfl)

/-- Accepting a word: ILLEGAL_CMD, or the command begun, or the command as a whole. -/
theorem accept_next {w : Word} {s t : State} (h : accept w s = .next t) :
    ((∃ r, decodeHost w = .error r) ∧ t = s.raiseFault .illegalCmd) ∨
    (∃ i, decodeHost w = .ok i ∧ s.interruptAt.isSome = true ∧ t = s.begin i) ∨
    (∃ i, decodeHost w = .ok i ∧ s.interruptAt.isSome = false ∧ exec i s = .next t) := by
  unfold accept at h
  split at h <;> rename_i hd
  · exact .inl ⟨⟨_, hd⟩, (Host.Outcome.next.inj h).symm⟩
  · split at h <;> rename_i hi
    · exact .inr (.inl ⟨_, hd, hi, (Host.Outcome.next.inj h).symm⟩)
    · exact .inr (.inr ⟨_, hd, by simpa using hi, h⟩)

/-- An outside action: the block reset, a read's reply, a held word, an accepted word, or an ignored write. -/
theorem perform_next {a : Act} {s t : State} (h : perform a s = .next t) :
    (a = .blockReset ∧ t = s.blockReset) ∨
    (∃ off, t = { s with replies := s.replies ++ [s.readReg off] }) ∨
    (∃ v, s.status.busy = true ∧ t = { s with held := some v }) ∨
    (∃ v, s.status.busy = false ∧ accept v s = .next t) ∨
    t = s := by
  unfold perform at h
  split at h
  · exact .inl ⟨rfl, (Host.Outcome.next.inj h).symm⟩
  · split at h
    · simp at h
    · exact .inr (.inl ⟨_, (Host.Outcome.next.inj h).symm⟩)
  · split at h
    · simp at h
    · unfold State.writeReg at h
      split at h
      · split at h <;> rename_i hb
        · exact .inr (.inr (.inl ⟨_, hb, (Host.Outcome.next.inj h).symm⟩))
        · exact .inr (.inr (.inr (.inl ⟨_, by simpa using hb, h⟩)))
      · exact .inr (.inr (.inr (.inr (Host.Outcome.next.inj h).symm)))

/-- Going on with a running command: to its end, to the interruption, or the interruption itself. -/
theorem advance_next {s t : State} (h : advance s = .next t) :
    (s.todo ≠ [] ∧ t = { runMicros s.todo s with todo := [] }) ∨
    (∃ i rest, s.todo ≠ [] ∧ s.inbox = i :: rest ∧ perform i.act { s with inbox := rest } = .next t) ∨
    (∃ k inb, s.todo ≠ [] ∧ t = { runMicros (s.todo.take (k + 1)) s with todo := s.todo.drop (k + 1), inbox := inb }) := by
  unfold advance at h
  split at h
  · simp at h
  · rename_i hd
    have hne : s.todo ≠ [] := by simp [hd]
    split at h
    · exact .inl ⟨hne, (Host.Outcome.next.inj h).symm⟩
    · split at h
      · simp at h
      · rename_i hin
        exact .inr (.inl ⟨_, _, hne, hin, h⟩)
    · exact .inr (.inr ⟨_, _, hne, (Host.Outcome.next.inj h).symm⟩)

/-- The controller takes an event: only `lcd` changes. -/
theorem deliver_next {e : WireEvent} {s t : State} (h : deliver e s = .next t) : ∃ l, t = { s with lcd := l } := by
  unfold deliver at h
  split at h
  · split at h
    · exact ⟨s.lcd, (Host.Outcome.next.inj h).symm⟩
    · split at h
      · rename_i i hd
        have hw : i.isHost = false := by
          unfold decodeFrame decodeExtended decodeNormal at hd
          repeat' split at hd
          all_goals first
            | (simp at hd; done)
            | (simp only [Except.ok.injEq] at hd; subst hd; rfl)
        obtain ⟨l, hl⟩ := exec_wire hw s
        exact ⟨l, Host.Outcome.next.inj (h.symm.trans hl)⟩
      · exact ⟨_, (Host.Outcome.next.inj h).symm⟩
  all_goals exact ⟨_, (Host.Outcome.next.inj h).symm⟩

/-- One step, by who moves. -/
theorem step_next {s t : State} (h : step s = .next t) :
    (∃ e rest, s.pending = e :: rest ∧ deliver e { s with pending := rest, heard := s.heard ++ [e] } = .next t) ∨
    (s.pending = [] ∧ s.status.busy = true ∧ advance s = .next t) ∨
    (∃ w, s.pending = [] ∧ s.status.busy = false ∧ s.held = some w ∧ accept w { s with held := none } = .next t) ∨
    (∃ i rest, s.pending = [] ∧ s.status.busy = false ∧ s.held = none ∧ s.inbox = i :: rest ∧
      perform i.act { s with inbox := rest } = .next t) ∨
    (s.pending = [] ∧ s.status.busy = false ∧ s.held = none ∧ s.inbox = [] ∧ t = s) := by
  unfold step at h
  split at h
  · rename_i hp
    exact .inl ⟨_, _, hp, h⟩
  · rename_i hp
    split at h <;> rename_i hb
    · exact .inr (.inl ⟨hp, hb, h⟩)
    · have hb' : s.status.busy = false := by simpa using hb
      split at h
      · rename_i w hh
        exact .inr (.inr (.inl ⟨w, hp, hb', hh, h⟩))
      · rename_i hh
        split at h
        · rename_i hin
          exact .inr (.inr (.inr (.inr ⟨hp, hb', hh, hin, (Host.Outcome.next.inj h).symm⟩)))
        · rename_i hin
          exact .inr (.inr (.inr (.inl ⟨_, _, hp, hb', hh, hin, h⟩)))

/-- Nothing is left of a finished command. -/
@[simp] theorem State.finished_todo (s : State) : s.finished.todo = [] := rfl

/-- An idle state is finished. -/
theorem State.finished_of_todo_nil {s : State} (h : s.todo = []) : s.finished = s := by
  unfold State.finished
  rw [h]
  cases s
  cases h
  rfl

end Sys2Proof.Machine
end

