-- ==== Sys2Proof/Tests/Slice0.lean ====
section
/-! SUPPORT. Tests/Slice0.lean: the model's own tests, their expected results taken from spec/95_test_vectors.md and the
tables of spec/, and a state and operands that meet each statement's hypotheses. -/

namespace Sys2Proof.Tests

open Sys2Proof.Machine

/-! ## Helpers -/

/-- A field of the next state, if there is one. -/
def after {α : Type} (o : Host.Outcome State Fault Refusal) (f : State → α) : Option α :=
  match o with
  | .next s => some (f s)
  | .fault _ => none
  | .refused _ => none

/-- The block after reset with STATUS.INIT = 1. -/
def ready : State := { State.reset with status := { State.reset.status with init := true } }

/-- The controller after INIT's reset pulse, powered up, with the given command set. -/
def panel (h : Bool) : LcdRegs := { LcdRegs.afterReset with pd := false, d := true, h := h }

/-- `ready` with a controller in the given command set. -/
def onPanel (h : Bool) : State := { ready with lcd := .known (panel h) }

/-- The frames a command puts on the wire. -/
def frames (i : Instr) (s : State) : Option (List (Mode × Byte)) := after (exec i s) fun t => framesOf t.trace

/-- The controller after a frame. -/
def lcdAfter (i : Instr) (h : Bool) : Option Lcd := after (exec i (onPanel h)) (·.lcd)

/-- What a step gives with an opcode-table word placed after reset. -/
def fetched {α : Type} (nbits w : Nat) (f : State → α) : Option α := after (step (State.reset.withFetchWord nbits w)) f

/-! ## Well-formedness: each check refuses a term (R77) -/

theorem test_wf_setpx_x_low : (Instr.setpx .black (-2049) 0).wellFormed = false := by decide
theorem test_wf_setpx_x_high : (Instr.setpx .black 2048 0).wellFormed = false := by decide
theorem test_wf_setpx_y_low : (Instr.setpx .white 0 (-2049)).wellFormed = false := by decide
theorem test_wf_setpx_y_high : (Instr.setpx .white 0 2048).wellFormed = false := by decide
theorem test_wf_getpx_x : (Instr.getpx 2048 0).wellFormed = false := by decide
theorem test_wf_getpx_y : (Instr.getpx 0 (-2049)).wellFormed = false := by decide
theorem test_wf_corners : (Instr.setpx .black (-2048) 2047).wellFormed = true ∧ (Instr.getpx 2047 (-2048)).wellFormed = true := by
  decide
theorem test_set_of_frames : (Instr.bias 4#3).definedIn false = false ∧ (Instr.dctl true false).definedIn true = false := by decide

/-! ## Decoding: words written out from the encodings, field by field (R72 to R77, R83, V1) -/

-- OP 0001, 20 zeros, CVAL 00111100 (R72)
theorem test_decode_init : decodeHost 0b0001_00000000000000000000_00111100#32 = .ok (.init 60#8) := by decide
-- OP 0010, 19 zeros, M 1, V 10100101 (R73)
theorem test_decode_send : decodeHost 0b0010_0000000000000000000_1_10100101#32 = .ok (.send .data 0xA5#8) := by decide
-- OP 0011, 13 zeros, COL 1010011, 5 zeros, BANK 101 (R74)
theorem test_decode_setaddr : decodeHost 0b0011_0000000000000_1010011_00000_101#32 = .ok (.setaddr 83#7 5#3) := by decide
-- OP 0100, 20 zeros, V 11111111 (R75)
theorem test_decode_write : decodeHost 0b0100_00000000000000000000_11111111#32 = .ok (.write 0xFF#8) := by decide
-- OP 0101 and OP 0110, 28 zeros (R76)
theorem test_decode_flush : decodeHost 0b0101_0000000000000000000000000000#32 = .ok .flush := by decide
theorem test_decode_clear : decodeHost 0b0110_0000000000000000000000000000#32 = .ok .clear := by decide
-- OP 0111, 3 zeros, C 1, X twelve ones (-1), Y 000000001010 (R77, R78)
theorem test_decode_setpx : decodeHost 0b0111_000_1_111111111111_000000001010#32 = .ok (.setpx .black (-1) 10) := by decide
-- OP 1000, 4 zeros, X 000001010011, Y 100000000000 (-2048) (R77, R78)
theorem test_decode_getpx : decodeHost 0b1000_0000_000001010011_100000000000#32 = .ok (.getpx 83 (-2048)) := by decide
-- DC 0, 00100, PD 1, V 0, H 1 in both sets (R203)
theorem test_decode_fset : decodeFrame false 0b0_00100_1_0_1#9 = .ok (.fset true false true) ∧
    decodeFrame true 0b0_00100_0_1_0#9 = .ok (.fset false true false) := by decide
-- DC 0, 00001, D 1, 0, E 0 in the normal set; bit 1 set has no meaning (R204)
theorem test_decode_dctl : decodeFrame false 0b0_00001_1_0_0#9 = .ok (.dctl true false) ∧
    decodeFrame false 0b0_00001_1_1_0#9 = .error .noPattern := by decide
-- DC 0, 01000, bank 101 (R205)
theorem test_decode_yaddr : decodeFrame false 0b0_01000_101#9 = .ok (.yaddr 5#3) := by decide
-- DC 0, 1, 1010011: the X-address in the normal set, the contrast in the extended set (R206, R209)
theorem test_decode_xaddr : decodeFrame false 0b0_1_1010011#9 = .ok (.xaddr 83#7) := by decide
theorem test_decode_vop : decodeFrame true 0b0_1_0111100#9 = .ok (.vop 60#7) := by decide
-- DC 0, 000001, TC 10 (R207)
theorem test_decode_tempco : decodeFrame true 0b0_000001_10#9 = .ok (.tempco 2#2) ∧
    decodeFrame false 0b0_000001_10#9 = .error .noPattern := by decide
-- DC 0, 00010, BS 100 (R208)
theorem test_decode_bias : decodeFrame true 0b0_00010_100#9 = .ok (.bias 4#3) ∧
    decodeFrame false 0b0_00010_100#9 = .error .noPattern := by decide
-- DC 1, byte 10000001 in both sets (R210)
theorem test_decode_data : decodeFrame false 0b1_10000001#9 = .ok (.data 0x81#8) ∧
    decodeFrame true 0b1_10000001#9 = .ok (.data 0x81#8) := by decide
-- V1's illegal words, one of each kind (R79)
theorem test_decode_reserved : decodeHost 0x00000000#32 = .error .reservedOp ∧ decodeHost 0x90000000#32 = .error .reservedOp ∧
    decodeHost 0xF0000000#32 = .error .reservedOp := by decide
theorem test_decode_mbz : decodeHost 0x10000100#32 = .error .mustBeZero ∧ decodeHost 0x20000200#32 = .error .mustBeZero ∧
    decodeHost 0x30000008#32 = .error .mustBeZero ∧ decodeHost 0x30008000#32 = .error .mustBeZero ∧
    decodeHost 0x40000100#32 = .error .mustBeZero ∧ decodeHost 0x50000001#32 = .error .mustBeZero ∧
    decodeHost 0x68000000#32 = .error .mustBeZero ∧ decodeHost 0x72000000#32 = .error .mustBeZero ∧
    decodeHost 0x81000000#32 = .error .mustBeZero := by decide

/-! ## The opcode table's words, and the step that runs them -/

theorem test_table_host : decodeTableWord 32 0x30005305 = some (.setaddr 83#7 5#3) ∧
    decodeTableWord 32 0x10000000 = some (.init 0#8) ∧ decodeTableWord 32 0x90000000 = none := by decide
theorem test_table_wire : decodeTableWord 16 0x020 = some (.fset false false false) ∧
    decodeTableWord 16 0x080 = some (.xaddr 0#7) ∧ decodeTableWord 16 0x010 = some (.bias 0#3) ∧
    decodeTableWord 16 0x100 = some (.data 0#8) := by decide
theorem test_fetch_init : fetched 32 0x1000003C (·.status.word) = some 0x02#32 := by decide
theorem test_fetch_flush : fetched 32 0x50000000 (·.status.word) = some 0x24#32 := by decide
theorem test_fetch_bias : fetched 16 0x014 (·.lcd) = some (.known { LcdRegs.afterReset with h := true, bs := 4#3 }) := by decide
theorem test_fetch_xaddr : fetched 16 0x0BC (·.lcd) = some (.known { LcdRegs.afterReset with x := 60 }) := by decide

/-! ## The host commands (V1 to V10) -/

-- S8, V1: the frames of init 60 and STATUS
theorem test_init_frames : frames (.init 60#8) State.reset =
    some [(.cmd, 0x21#8), (.cmd, 0x14#8), (.cmd, 0xBC#8), (.cmd, 0x20#8), (.cmd, 0x0C#8)] := by decide
-- S7: contrast 200 clamped, and V3: BIAS 7
theorem test_init_contrast : after (exec (.init 200#8) State.reset) (fun t => (t.status.word, t.contrast)) =
    some (0x02#32, 0x7F#32) ∧
    (frames (.init 200#8) { State.reset with par := { State.reset.par with contrastMode := .mask, bias := 7#3 } }).map
      (fun l => l.drop 1 |>.take 2) = some [(.cmd, 0x17#8), (.cmd, 0xC8#8)] := by decide
-- V2
theorem test_send : frames (.send .data 0xA5#8) ready = some [(.data, 0xA5#8)] ∧
    bitsMsbFirst 0xA5#8 = [true, false, true, false, false, true, false, true] := by decide
-- V4
theorem test_setaddr : frames (.setaddr 83#7 5#3) ready = some [(.cmd, 0xD3#8), (.cmd, 0x45#8)] ∧
    frames (.setaddr 127#7 7#3) ready = some [(.cmd, 0xFF#8), (.cmd, 0x47#8)] := by decide
-- V5
theorem test_write : after (exec (.write 0x81#8) ready) (fun t => (framesOf t.trace, t.pins.dc, t.fb)) =
    some ([(.data, 0x81#8)], true, []) := by decide
-- V6 from block reset: NOT_INITIALIZED and nothing written
theorem test_clear_uninitialised : after (exec .clear State.reset) (fun t => (t.status.word, t.fb)) =
    some (0x24#32, []) := by decide
-- V6, R150: 504 stores of 0x00, the last at byte 503, no frame, STATUS 0x02
theorem test_clear : scriptClear.length = 506 ∧ scriptClear[1]? = some (.op (.store 0 0x00#8)) ∧
    scriptClear[504]? = some (.op (.store 503 0x00#8)) ∧ scriptFrames scriptClear = [] ∧
    after (exec .clear ready) (·.status.word) = some 0x02#32 := by decide +kernel
-- V9, R181: the address pair, then byte 0, byte 1, up to byte 503, a frame each
theorem test_flush : (frames .flush { ready with fb := [(0, 0x12#8), (1, 0x34#8)] }).map (·.take 4) =
    some [(.cmd, 0x80#8), (.cmd, 0x40#8), (.data, 0x12#8), (.data, 0x34#8)] := by decide +kernel
theorem test_flush_last : (scriptFrames (scriptFlush { ready with fb := [(503, 0x80#8)] })).length = 506 ∧
    (scriptFrames (scriptFlush { ready with fb := [(503, 0x80#8)] }))[505]? = some (.data, 0x80#8) := by decide +kernel
-- V7: (3, 10) is bit 2 of byte 87; (83, 47) is bit 7 of byte 503; (-1, 0) is clipped
theorem test_setpx : after (exec (.setpx .black 3 10) { ready with fb := [(87, 0x01#8)] }) (·.fb) = some [(87, 0x05#8)] ∧
    after (exec (.setpx .white 3 8) { ready with fb := [(87, 0x05#8)] }) (·.fb) = some [(87, 0x04#8)] := by decide
theorem test_setpx_corner : after (exec (.setpx .black 83 47) { ready with fb := [(503, 0x00#8)] }) (·.fb) =
      some [(503, 0x80#8)] ∧
    after (exec (.setpx .black (-1) 0) { ready with fb := [(83, 0x00#8)] }) (·.fb) = some [(83, 0x00#8)] := by decide
-- V8
theorem test_getpx : after (exec (.getpx 3 10) { ready with fb := [(87, 0x04#8)] }) (·.rdata) = some 1#32 ∧
    after (exec (.getpx 3 11) { ready with fb := [(87, 0x04#8)] }) (·.rdata) = some 0#32 := by decide
theorem test_getpx_outside : after (exec (.getpx 84 0) { ready with rdata := 1#32 }) (·.rdata) = some 0#32 := by decide
-- V10: the first cause stays
theorem test_first_cause : after (accept 0x90000000#32 State.reset) (·.status.word) = some 0x14#32 ∧
    after (accept 0xF0000000#32 { State.reset with status := State.reset.status.record .notInitialized }) (·.status.word) =
      some 0x24#32 := by decide

/-! ## The controller (V12) -/

theorem test_fset : lcdAfter (.fset false true false) true = some (.known { panel false with v := true }) := by decide
theorem test_dctl : lcdAfter (.dctl true true) false = some (.known { panel false with e := true }) ∧
    lcdAfter (.dctl true true) true = some .undef := by decide
theorem test_xaddr : lcdAfter (.xaddr 60#7) false = some (.known { panel false with x := 60 }) ∧
    lcdAfter (.xaddr 84#7) false = some .undef := by decide
theorem test_yaddr : lcdAfter (.yaddr 5#3) false = some (.known { panel false with y := 5 }) ∧
    lcdAfter (.yaddr 6#3) false = some .undef := by decide
theorem test_vop : lcdAfter (.vop 60#7) true = some (.known { panel true with vop := 60#7 }) := by decide
theorem test_bias : lcdAfter (.bias 4#3) true = some (.known { panel true with bs := 4#3 }) ∧
    lcdAfter (.bias 4#3) false = some .undef := by decide
theorem test_tempco : lcdAfter (.tempco 2#2) true = some (.known { panel true with tc := 2#2 }) := by decide
-- V5: the column wraps into the next bank, and the last bank into the first
theorem test_data : ((Lcd.known { panel false with x := 83 }).frame .data 0x11#8) =
    .known { panel false with x := 0, y := 1, ddram := [(83, 0x11#8)] } := by decide
theorem test_data_bank_wrap : ((Lcd.known { panel false with x := 83, y := 5 }).frame .data 0x11#8) =
    .known { panel false with x := 0, y := 0, ddram := [(503, 0x11#8)] } := by decide
-- R213: UNDEF takes nothing but a reset pulse
theorem test_undef : Lcd.undef.frame .cmd 0x20#8 = .undef ∧ (Lcd.known (panel true)).frame .cmd 0x40#8 = .undef := by decide

/-! ## The pins, the window, the assembler -/

-- V11: the levels of emit(CMD, 0x0C) as a receiver reads them
theorem test_pins : ((Receiver.start Pins.reset).read (pinTrace (emitMicros .cmd 0x0C#8))).frames = [(.cmd, 0x0C#8)] := by decide
-- R22 in a host read, and the refusals of R60
theorem test_window : after (perform (.access (.read 4 32)) ready) (·.replies) = some [0x02#32] ∧
    (after (perform (.access (.read 4 16)) ready) (·.replies)).isNone = true := by decide
-- P1, and a comment line and hexadecimal (R86)
theorem test_assemble : assemble "init 60 ; boot\n; nothing\nclear\nsetpx -1, 0, black\nsend cmd, 0x21".toList =
    some [0x1000003C#32, 0x60000000#32, 0x71FFF000#32, 0x20000021#32] := by decide
theorem test_assemble_crlf : assemble "clear\r\nsetaddr 83, 5\r\n".toList = some [0x60000000#32, 0x30005305#32] := by decide
theorem test_assemble_rejects : assemble "init 256".toList = none ∧ assemble "setaddr 128, 0".toList = none ∧
    assemble "dispmode inverse".toList = some [0x2000000D#32] := by decide

/-! ## Witnesses: the hypotheses of each statement are met -/

theorem witness_DecodeOfEncode : (Instr.setpx .black (-2048) 2047).wellFormed = true ∧
    (Instr.setpx .black (-2048) 2047).definedIn true = true ∧
    (Instr.bias 7#3).wellFormed = true ∧ (Instr.bias 7#3).definedIn true = true ∧
    (Instr.yaddr 7#3).definedIn false = true := by decide
theorem witness_EncodeOfDecode : decode true (.frame 0x017#9) = .ok (.bias 7#3) ∧
    decode false (.host 0x80FFF800#32) = .ok (.getpx (-1) (-2048)) := by decide
theorem witness_IllegalWordRecordsFaultOnly : ¬ (0x50000001#32 = 0x50000000#32 ∨ 0x50000001#32 &&& 0xFE000000#32 = 0x70000000#32) ∧
    0x71FFFFFF#32 &&& 0xFE000000#32 = 0x70000000#32 ∧ 0x30007F07#32 &&& 0xFFFF80F8#32 = 0x30000000#32 := by decide
theorem witness_AssemblerRejectsOutOfRange : (AsmLine.init 255).instr = some (.init 255#8) ∧ (AsmLine.init 256).instr = none ∧
    (AsmLine.setaddr 127 7).instr = some (.setaddr 127#7 7#3) ∧ (AsmLine.setaddr 127 8).instr = none ∧
    (AsmLine.setpx (-2048) 2047 .white).instr = some (.setpx .white (-2048) 2047) ∧
    (AsmLine.getpx 0 2048).instr = none ∧ (AsmLine.send .cmd (-1)).instr = none ∧ (AsmLine.write 256).instr = none := by decide
theorem witness_PseudoInstructionExpansions : (AsmLine.tempco 3).instr = some (.send .cmd 0x07#8) ∧
    (AsmLine.setbias 7).instr = some (.send .cmd 0x17#8) ∧ (AsmLine.setvop 127).instr = some (.send .cmd 0xFF#8) := by decide
theorem witness_StepRunsHostWord : State.reset.pending = [] ∧ State.reset.status.busy = false ∧ State.reset.held = none ∧
    (State.reset.offerHost 0x1000003C#32).inbox = [⟨.whenIdle, .access (.write 0 32 0x1000003C#32)⟩] ∧
    decodeHost 0x1000003C#32 = .ok (.init 60#8) ∧ State.reset.interruptAt = none := by decide
theorem witness_StepDeliversFrame : ((onPanel true).offerFrame true 0x014#9).pending = [.frame .cmd 0x14#8] ∧
    ((onPanel true).offerFrame true 0x014#9).lcd = .known (panel true) ∧
    decodeFrame true (frameBits .cmd 0x14#8) = .ok (.bias 4#3) := by decide

/-- A block with a command in progress: INIT accepted, the rest still to do. -/
def running : State := State.reset.begin (.init 60#8)

theorem witness_CmdWriteDeliveredOrHeld : running.status.busy = true ∧ State.reset.status.busy = false ∧
    State.reset.pending = [] ∧ ({ State.reset with held := some 0#32 } : State).held = some 0#32 := by decide
theorem witness_AccessesOutsideInterfaceRefused :
    (after (perform (.access (.read 0 16)) State.reset) (·.par)).isNone = true ∧
    (after (perform (.access (.write 16 32 0#32)) State.reset) (·.par)).isNone = true ∧
    (after (perform (.access (.read 13 32)) State.reset) (·.par)).isNone = true ∧
    (after (perform (.access (.read 12 32)) State.reset) (·.par)).isSome = true ∧
    (after (perform (.access (.read 15 32)) { State.reset with par := { State.reset.par with base := 16 } }) (·.par)).isNone = true := by
  decide
theorem witness_BlockResetLosesPanel : ∃ t, perform .blockReset running = .next t := ⟨_, rfl⟩
theorem witness_ContrastReducedToSevenBits : (127#8).toNat ≤ 127 ∧ contrast7 .clamp 128#8 = 127#7 ∧ contrast7 .mask 128#8 = 0#7 := by
  decide
/-- SEND, SETADDR, WRITE, FLUSH, CLEAR, GETPX and the frame counts ask for STATUS.INIT = 1 alone. -/
theorem witness_initialised : ready.status.init = true := by decide
theorem witness_SetpxSetsOnePixel : inBounds 83 47 = true ∧ inBounds 0 0 = true ∧ inBounds 84 47 = false ∧ inBounds 83 48 = false ∧
    inBounds (-1) 0 = false ∧ inBounds 0 (-1) = false := by decide
theorem witness_SetpxLaws : ready.status.init = true ∧ inBounds 0 0 = true ∧ inBounds 0 1 = true ∧ inBounds 84 0 = false := by decide
theorem witness_UninitialisedCommandFaultsOnly : Instr.flush.isHost = true ∧ (∀ c, Instr.flush ≠ .init c) ∧
    State.reset.status.init = false := ⟨rfl, by simp, rfl⟩
theorem witness_AcceptedCommandCompletes : accepts (.init 0#8) State.reset = true ∧ accepts .flush ready = true := by decide
theorem witness_OnlyTheNamedCommandsWrite : (∃ t, exec .flush ready = .next t) ∧ (∃ t, exec (.data 0#8) ready = .next t) :=
  ⟨⟨_, rfl⟩, ⟨_, rfl⟩⟩
theorem witness_FlushTwiceEmitsTheSame : ready.status.init = true ∧ ∀ i ∈ [Instr.setpx .black 84 0, .write 0xFF#8],
    i.isHost = true ∧ i ≠ .clear ∧ ∀ c x y, i = .setpx c x y → inBounds x y = false := by
  refine ⟨rfl, ?_⟩
  simp [Instr.isHost]
  rfl
theorem witness_PackIsFramebufferByte : ({ ready with fb := [(503, 0x80#8)] } : State).pack 5 83 = 0x80#8 ∧
    ({ ready with fb := [(503, 0x80#8)] } : State).pixel 83 47 = true := by decide
theorem witness_PixelMapInverse : pixelIndex (503 % 84) (8 * (503 / 84) + 7) = 503 ∧ pixelIndex 83 47 = 503 ∧ pixelIndex 0 0 = 0 ∧ pixelIndex 0 8 = 84 := by decide
theorem witness_ControllerRegisterFrames : (onPanel false).lcd = .known (panel false) ∧ (panel false).v = false ∧
    (panel false).h = false ∧ (onPanel true).lcd = .known (panel true) ∧ (panel true).h = true ∧ (panel true).v = false := by decide
theorem witness_ControllerAddressFrames : (83#7).toNat ≤ 83 ∧ ¬ (84#7).toNat ≤ 83 ∧ (5#3).toNat ≤ 5 ∧ ¬ (6#3).toNat ≤ 5 ∧
    (onPanel false).lcd = .known (panel false) ∧ (panel false).v = false ∧ (panel false).h = false := by decide
theorem witness_FramesOutsideTheirSet : (Instr.bias 4#3).isHost = false ∧ ready.lcd = .undef ∧
    (Instr.bias 4#3).definedIn (panel false).h = false ∧
    ({ onPanel true with lcd := .known { panel true with v := true } } : State).lcd = .known { panel true with v := true } ∧
    (∀ c, Instr.bias 4#3 ≠ .xaddr c) ∧ (∀ c, Instr.bias 4#3 ≠ .vop c) := ⟨rfl, rfl, rfl, rfl, by simp, by simp⟩
theorem witness_DataFrameStoresAndAdvances : (panel false).v = false ∧ (panel false).x < 84 ∧ (panel false).y < 6 ∧
    ({ panel false with x := 83, y := 5 } : LcdRegs).x < 84 := by decide
theorem witness_CommandByteEffects : (panel false).v = false ∧ (panel true).v = false ∧
    (Lcd.known (panel false)).frame .cmd 0xD3#8 = .known { panel false with x := 83 } ∧
    (Lcd.known (panel false)).frame .cmd 0xD4#8 = .undef ∧
    (Lcd.known (panel true)).frame .cmd 0x28#8 = .undef := by decide
theorem witness_UndefAbsorbsUntilResetPulse : ({ panel false with v := true } : LcdRegs).v = true := by decide
theorem witness_VisibleByDisplayMode : ({ panel false with ddram := [(503, 0x80#8)] } : LcdRegs).dd 5 83 = some 0x80#8 ∧
    (Lcd.known { panel false with ddram := [(503, 0x80#8)] }).visible 83 47 = some true ∧
    (Lcd.known { panel false with ddram := [(503, 0x80#8)], e := true }).visible 83 47 = some false ∧
    (Lcd.known { panel false with ddram := [(503, 0x80#8)], pd := true }).visible 83 47 = some false := by decide
theorem witness_VisibleByDisplayMode_unknown : (panel false).dd 5 83 = none ∧ (Lcd.known (panel false)).visible 83 47 = none ∧
    (Lcd.known { panel false with d := false, e := true }).visible 83 47 = some true := by decide
theorem witness_FlushRoundTrip : [Instr.clear, .setpx .black 20 30, .setaddr 83#7 5#3, .write 0xFF#8].all keepsPanel = true := by
  decide
theorem witness_FlushInExtendedSetLosesPanel :
    observe ({ ready with heard := [.resetPulse, .frame .cmd 0x21#8] } : State).trace =
      .known { LcdRegs.afterReset with pd := false, h := true } := by decide
theorem witness_FramePinsReadBack : Pins.reset.sceN = true ∧ Pins.reset.sclk = false := by decide
theorem witness_CommandPinsReadBack : accepts (.init 0#8) State.reset = true ∧ (∃ t, exec (.init 0#8) State.reset = .next t) ∧
    State.reset.pins.sceN = true ∧ State.reset.pins.sclk = false ∧ State.reset.pins.rstN = true :=
  ⟨rfl, ⟨_, rfl⟩, rfl, rfl, rfl⟩
theorem witness_InterruptedCommandEndsAsWhole : accepts (.send .cmd 0x21#8) ready = true ∧
    decodeHost 0x20000021#32 = .ok (.send .cmd 0x21#8) ∧ accepts (.send .cmd 0x21#8) State.reset = false ∧
    ({ ready with inbox := [⟨.during 3, .access (.read 4 32)⟩] } : State).inbox =
      [⟨.during 3, .access (.read 4 32)⟩] ∧ ready.held = none := by decide
theorem witness_HostSeesOnlyBusy : accepts (.init 60#8) State.reset = true ∧ accepts .clear ready = true ∧
    0 < running.todo.length ∧ running.todo.length - 1 < running.todo.length := by decide +kernel
-- R22, R124: with all of INIT done but its last micro-step, STATUS reads BUSY = 1, INIT = 0, and CONTRAST is the old one
theorem test_host_during_init :
    (runMicros running.todo.dropLast running).status.word = 0x01#32 ∧
    (runMicros running.todo.dropLast running).contrast = 0#32 ∧
    (runMicros running.todo running).status.word = 0x02#32 ∧ (runMicros running.todo running).contrast = 0x3C#32 := by decide

/-- A state with a fault recorded and a CMD write waiting. -/
def faulted : State :=
  { State.reset with status := State.reset.status.record .illegalCmd, inbox := programInputs 0 [0x1000003C#32] }

theorem witness_FaultSticky_blockReset : ∃ t, perform .blockReset faulted = .next t := ⟨_, rfl⟩
theorem witness_FaultSticky_takes_reset :
    after (step { faulted with inbox := [⟨.whenIdle, .blockReset⟩] }) (fun t => (t.draw, t.status.word)) = some (1, 0#32) := by
  decide
theorem witness_FaultStickyUntilBlockReset : faulted.status.fault = true ∧ faulted.status.cause ≠ 0#4 ∧
    after (step faulted) (fun t => (t.draw, t.status.word)) = some (0, 0x16#32) := by decide
theorem witness_StepKeepsRanges : State.reset.Ranges ∧ ∃ t, step State.reset = .next t :=
  ⟨⟨rfl, rfl, by decide, by decide, by decide, by decide, rfl, rfl⟩, ⟨_, rfl⟩⟩
/-- SEND accepted, the rest of its micro-steps still to do. -/
def sending : State := ready.begin (.send .data 0xA5#8)

theorem sending_idle_after : ({ runMicros sending.todo sending with todo := [] } : State).Idle :=
  ⟨by decide, rfl, by decide, by decide, by decide, by decide, by decide, by decide⟩
theorem sending_counts : (List.range (sending.todo.length + 1)).all
    (fun k => decide ((runMicros (sending.todo.take k) sending).bitcnt ≤ 8)
      && (decide (k = sending.todo.length) || (runMicros (sending.todo.take k) sending).status.busy)) = true := by decide
theorem witness_StepKeepsBusyTrue_busy : sending.BusyTrue := by
  have h := sending_counts
  simp only [List.all_eq_true, List.mem_range, Bool.and_eq_true, decide_eq_true_eq, Bool.or_eq_true] at h
  refine .inr ⟨rfl, by decide, fun k hk => ?_, fun k => ?_, sending_idle_after⟩
  · exact (h k (by omega)).2.resolve_left (by omega)
  · rcases Nat.lt_or_ge k sending.todo.length with hk | hk
    · exact (h k (by omega)).1
    · rw [List.take_of_length_le hk, ← List.take_length (l := sending.todo)]
      exact (h sending.todo.length (by omega)).1
theorem witness_StepKeepsBusyTrue_idle : State.reset.BusyTrue :=
  .inl ⟨rfl, ⟨rfl, rfl, by decide, rfl, rfl, rfl, rfl, rfl⟩⟩
theorem witness_TruthfulStepNeverFaults : sending.BusyTrue ∧ State.reset.BusyTrue :=
  ⟨witness_StepKeepsBusyTrue_busy, witness_StepKeepsBusyTrue_idle⟩
theorem witness_StepKeepsRanges_running :
    ({ sending with fb := [(0, 0xFF#8), (503, 0x00#8)], rdata := 1#32, contrast := 127#32, seqBank := 5, seqCol := 83 } : State).Ranges :=
  ⟨by decide, by decide, by decide, by decide, by decide, by decide, by decide, by decide⟩
theorem witness_StepKeepsBusyTrue_steps : (∃ t, step sending = .next t) ∧ ∃ t, step State.reset = .next t := ⟨⟨_, rfl⟩, ⟨_, rfl⟩⟩
theorem witness_StepGoesOnWithCommand : sending.pending = [] ∧ sending.status.busy = true ∧ sending.todo ≠ [] ∧ sending.inbox = [] ∧
    sending.held = none := by decide
-- R61: a STATUS read that falls inside SEND has its turn in the step after the SEND has gone on to it
theorem test_read_inside_send :
    after (step { sending with inbox := [⟨.during 5, .access (.read 4 32)⟩] }) (fun t => (t.inbox, t.todo.length)) =
      some ([⟨.during 0, .access (.read 4 32)⟩], sending.todo.length - 5) ∧
    after (step { sending with inbox := [⟨.during 0, .access (.read 4 32)⟩] }) (fun t => (t.inbox, t.replies)) =
      some ([], [0x03#32]) := by decide
theorem witness_StepKeepsPanelReady : State.reset.BusyTrue ∧
    ({ State.reset with inbox := programInputs 0 [0x1000003C#32, 0x60000000#32, 0x50000000#32] } : State).PanelReady :=
  ⟨witness_StepKeepsBusyTrue_idle, ⟨by decide, (fun _ h => nomatch h), fun h => nomatch h⟩⟩
theorem witness_StepKeepsPanelReady_initialised :
    ({ ready with heard := [.resetPulse, .frame .cmd 0x20#8, .frame .cmd 0x0C#8] } : State).PanelReady :=
  ⟨rfl, (fun _ h => nomatch h), fun _ => by decide⟩
theorem witness_StepKeepsObserved : State.reset.Observed ∧
    ({ ready with heard := [.resetPulse], lcd := .known LcdRegs.afterReset } : State).Observed := ⟨rfl, rfl⟩

end Sys2Proof.Tests
end

section
/-! PROOFS. The family 00_scope: micro-steps refine transactions (R11, R105), what a host sees of a running command
(R11, R22, R124), and how a step goes on with one (R61). -/

namespace Sys2Proof.Machine

/-! ## Micro-steps refine transactions -/

/-- The block once `n` bits have gone out on the bus, the last of them `v`: SDIN holds it, SCLK is low again and each
bit is counted (R101). -/
def State.bitsOut (v : Bool) (n : Nat) (s : State) : State :=
  { s with pins := { s.pins with sdin := v, sclk := false }, bitcnt := s.bitcnt + n }

theorem State.bitsOut_bitsOut (u v : Bool) (m n : Nat) (s : State) :
    (s.bitsOut u m).bitsOut v n = s.bitsOut v (m + n) := by
  simp [State.bitsOut, Nat.add_assoc]

/-- The pin sequence of one bit (R101). -/
theorem runMicros_bitMicros (v : Bool) (s : State) : runMicros (bitMicros v) s = s.bitsOut v 1 := by
  simp [bitMicros, runMicros_cons, runMicros_nil, Micro.run, Pins.set, State.bitsOut]

/-- The pin sequence of the bits of a frame (R101). -/
theorem runMicros_bits (bits : List Bool) (v : Bool) (s : State) :
    runMicros ((bits ++ [v]).flatMap bitMicros) s = s.bitsOut v (bits.length + 1) := by
  induction bits generalizing s with
  | nil => exact runMicros_bitMicros v s
  | cons b bits ih =>
    rw [List.cons_append, List.flatMap_cons, runMicros_append, runMicros_bitMicros, ih, State.bitsOut_bitsOut,
      List.length_cons, Nat.add_comm]

/-- The pin sequence of a whole frame comes to the frame at the transaction level (R101, R105). -/
theorem runMicros_emitMicros (m : Mode) (b : Byte) (s : State) : runMicros (emitMicros m b) s = s.emit m b := by
  have hbits : bitsMsbFirst b =
      [b.getLsbD 7, b.getLsbD 6, b.getLsbD 5, b.getLsbD 4, b.getLsbD 3, b.getLsbD 2, b.getLsbD 1] ++ [b.getLsbD 0] := rfl
  rw [emitMicros, runMicros_append, runMicros_append, hbits, runMicros_bits]
  simp [runMicros_cons, runMicros_nil, Micro.run, Pins.set, State.bitsOut, State.emit]

/-- The micro-steps of an action come to the action as one transition (R105). -/
theorem Action.runMicros_micros (a : Action) (s : State) : runMicros a.micros s = a.run s := by
  cases a with
  | op m => rfl
  | emit m b => exact runMicros_emitMicros m b s
  | resetPulse => rfl

theorem scriptMicros_cons (a : Action) (as : List Action) : scriptMicros (a :: as) = a.micros ++ scriptMicros as := rfl

theorem scriptMicros_op (m : Micro) : scriptMicros [.op m] = [m] := rfl

theorem scriptMicros_append (as bs : List Action) : scriptMicros (as ++ bs) = scriptMicros as ++ scriptMicros bs :=
  List.flatMap_append

/-- Settles O47, by induction on the script: each action's micro-steps come to the action. -/
theorem microsRefineTransactions : Obligations.MicrosRefineTransactions := by
  intro as
  induction as with
  | nil => exact fun s => rfl
  | cons a as ih =>
    intro s
    rw [scriptMicros_cons, runMicros_append, Action.runMicros_micros, ih, runActions_cons]

/-! ## The shape of a host command: its acceptance, steps inside, its completion -/

/-- A micro-step inside a command: neither its acceptance nor its completion. -/
def Micro.inside : Micro → Bool
  | .accept _ _ => false
  | .done _ => false
  | _ => true

/-- An action inside a command: a frame, the reset pulse, or a micro-step inside. -/
def Action.inside : Action → Bool
  | .op m => m.inside
  | .emit _ _ => true
  | .resetPulse => true

/-- Does accepting the command clear STATUS.INIT? Only INIT's acceptance does (R27). -/
def clearsInit : Instr → Bool
  | .init _ => true
  | _ => false

theorem Action.micros_inside {a : Action} (h : a.inside = true) : a.micros.all Micro.inside = true := by
  cases a with
  | op m => simpa [Action.micros, Action.inside] using h
  | emit m b => rfl
  | resetPulse => rfl

theorem scriptMicros_inside {as : List Action} (h : as.all Action.inside = true) :
    (scriptMicros as).all Micro.inside = true := by
  rw [scriptMicros, List.all_flatMap]
  exact List.all_eq_true.mpr fun a ha => Action.micros_inside (List.all_eq_true.mp h a ha)

theorem flushWalk_inside (s : State) : (flushWalk s).all Action.inside = true := by
  simp [flushWalk, flushColumn, Action.inside, Micro.inside]

/-- Every accepted command's script: the acceptance of its word, actions inside, and one completion (R23, R27). -/
theorem scriptOf_shape {i : Instr} {s : State} (h : accepts i s = true) :
    ∃ (body : List Action) (f : Finish), body.all Action.inside = true ∧
      scriptOf i s = Action.op (.accept (hostWord i) (clearsInit i)) :: body ++ [Action.op (.done f)] := by
  cases i
  case init c => exact ⟨[_, _, _, _, _, _], _, rfl, rfl⟩
  case send => exact ⟨[_], _, rfl, rfl⟩
  case setaddr => exact ⟨[_, _], _, rfl, rfl⟩
  case write => exact ⟨[_], _, rfl, rfl⟩
  case flush =>
    refine ⟨[Action.emit .cmd (xAddrByte 0#7), Action.emit .cmd (yAddrByte 0#3)] ++ flushWalk s ++
      [Action.op (.seqAt 0 0)], .plain, ?_, ?_⟩
    · simp [flushWalk_inside, Action.inside, Micro.inside]
    · simp [scriptOf, scriptFlush, clearsInit]
  case clear =>
    refine ⟨(List.range 504).map fun i => Action.op (.store i 0x00#8), .plain, ?_, ?_⟩
    · simp [Action.inside, Micro.inside]
    · simp [scriptOf, scriptClear, clearsInit]
  case setpx c x y =>
    refine ⟨_, .plain, ?_, rfl⟩
    split <;> rfl
  case getpx => exact ⟨[], _, rfl, rfl⟩
  all_goals cases h

/-- A command other than INIT is accepted only with STATUS.INIT = 1 (R27, R241). -/
theorem init_of_accepts {i : Instr} {s : State} (h : accepts i s = true) (hi : clearsInit i = false) :
    s.status.init = true := by
  cases i
  case init => cases hi
  case fset | dctl | yaddr | xaddr | tempco | bias | vop | data => cases h
  all_goals exact h

/-! ## What a host sees of a running command -/

/-- What a host can read of the block: STATUS, RDATA and CONTRAST (R21). -/
def State.hostView (s : State) : Status × Word × Word := (s.status, s.rdata, s.contrast)

/-- A micro-step inside a command changes nothing a host can read. -/
theorem Micro.run_hostView {m : Micro} (h : m.inside = true) (s : State) : (m.run s).hostView = s.hostView := by
  cases m
  case accept => cases h
  case done => cases h
  all_goals rfl

/-- Micro-steps inside a command change nothing a host can read. -/
theorem runMicros_hostView {ms : List Micro} (h : ms.all Micro.inside = true) (s : State) :
    (runMicros ms s).hostView = s.hostView := by
  induction ms generalizing s with
  | nil => rfl
  | cons m ms ih =>
    rw [List.all_cons, Bool.and_eq_true] at h
    rw [runMicros_cons, ih h.2, Micro.run_hostView h.1]

/-- Beginning an accepted command: its acceptance has run, and steps inside it and one completion are left. -/
theorem State.begin_of_accepts {i : Instr} {s : State} (h : accepts i s = true) :
    ∃ (ms : List Micro) (f : Finish), ms.all Micro.inside = true ∧
      s.begin i = { (Micro.accept (hostWord i) (clearsInit i)).run s with todo := ms ++ [Micro.done f] } := by
  obtain ⟨body, f, hbody, hscript⟩ := scriptOf_shape h
  have hmicros : scriptMicros (scriptOf i s) =
      Micro.accept (hostWord i) (clearsInit i) :: (scriptMicros body ++ [Micro.done f]) := by
    rw [hscript, List.cons_append, scriptMicros_cons, scriptMicros_append, scriptMicros_op]
    rfl
  refine ⟨scriptMicros body, f, scriptMicros_inside hbody, ?_⟩
  rw [State.begin, if_pos h, hmicros, List.take_succ_cons, List.take_zero, runMicros_cons, runMicros_nil,
    List.drop_succ_cons, List.drop_zero]

/-- Before its last micro-step a host reads of an accepted command what its acceptance left. -/
theorem hostView_during {i : Instr} {s : State} {k : Nat} (h : accepts i s = true) (hk : k < (s.begin i).todo.length) :
    (runMicros ((s.begin i).todo.take k) (s.begin i)).hostView =
      ({ s.status with busy := true, init := s.status.init && !clearsInit i }, s.rdata, s.contrast) := by
  obtain ⟨ms, f, hms, hbegin⟩ := State.begin_of_accepts h
  have htodo : (s.begin i).todo = ms ++ [Micro.done f] := by rw [hbegin]
  have htake : (s.begin i).todo.take k = ms.take k := by
    rw [htodo, List.length_append, List.length_singleton] at hk
    rw [htodo, List.take_append_of_le_length (by omega)]
  have hin : (ms.take k).all Micro.inside = true :=
    List.all_eq_true.mpr fun m hm => List.all_eq_true.mp hms m (List.mem_of_mem_take hm)
  rw [htake, runMicros_hostView hin, hbegin]
  rfl

/-- Settles O49: the micro-steps before the last leave the host's view as the acceptance made it. -/
theorem hostSeesOnlyBusy : Obligations.HostSeesOnlyBusy := by
  intro i s k h hk t
  have hview : t.hostView = _ := hostView_during h hk
  simp only [State.hostView, Prod.mk.injEq] at hview
  obtain ⟨hstatus, hrdata, hcontrast⟩ := hview
  rw [hstatus]
  refine ⟨rfl, ?_, ?_, rfl, rfl, hrdata, hcontrast⟩
  · rintro c rfl
    exact Bool.and_false _
  · intro hne
    have hi : clearsInit i = false := by
      cases i
      case init c => exact absurd rfl (hne c)
      all_goals rfl
    simp [hi, init_of_accepts h hi]

/-! ## A step of a busy block -/

/-- With nothing on the wire a busy block goes on with its command. -/
theorem step_of_busy {s : State} (hp : s.pending = []) (hb : s.status.busy = true) : step s = advance s := by
  simp [step, hp, hb]

/-- Nothing falls inside the running command: no action waits, the next one waits for the idle block, or it is an access
of the host, which waits on its held CMD write (R63; log 18). -/
theorem State.interruptAt_eq_none {s : State}
    (h : s.inbox = [] ∨ (∃ a rest, s.inbox = ⟨.whenIdle, a⟩ :: rest) ∨
      (∃ k a rest, s.inbox = ⟨.during k, .access a⟩ :: rest ∧ s.held ≠ none)) :
    s.interruptAt = none := by
  unfold State.interruptAt
  obtain hnil | ⟨a, rest, hidle⟩ | ⟨k, a, rest, hduring, hheld⟩ := h
  · rw [hnil]
  · rw [hidle]
  · simp [hduring, hheld]

/-- The next action falls inside the running command: a block reset, or anything while no CMD write is held. -/
theorem State.interruptAt_eq_some {s : State} {k : Nat} {a : Act} {rest : List Input}
    (h : s.inbox = ⟨.during k, a⟩ :: rest) (ha : s.held = none ∨ a = .blockReset) : s.interruptAt = some k := by
  unfold State.interruptAt
  rw [h]
  cases a with
  | blockReset => rfl
  | access a =>
    have hheld : s.held = none := ha.resolve_right nofun
    simp [hheld]

/-- A command that nothing interrupts is carried out to its end. -/
theorem advance_to_end {s : State} (ht : s.todo ≠ []) (h : s.interruptAt = none) :
    advance s = .next { runMicros s.todo s with todo := [] } := by
  obtain ⟨m, ms, htodo⟩ := List.exists_cons_of_ne_nil ht
  simp [advance, htodo, h]

/-- A command goes on to what falls inside it, which then is the next to act. -/
theorem advance_to_interruption {s : State} {k : Nat} {j : Input} {rest : List Input} (ht : s.todo ≠ [])
    (h : s.interruptAt = some (k + 1)) (hin : s.inbox = j :: rest) :
    advance s = .next { runMicros (s.todo.take (k + 1)) s with
      todo := s.todo.drop (k + 1), inbox := j.now :: rest } := by
  obtain ⟨m, ms, htodo⟩ := List.exists_cons_of_ne_nil ht
  simp [advance, htodo, h, hin]

/-- What falls inside a command acts once its time has come (R61, R271). -/
theorem advance_at_interruption {s : State} {j : Input} {rest : List Input} (ht : s.todo ≠ [])
    (h : s.interruptAt = some 0) (hin : s.inbox = j :: rest) :
    advance s = perform j.act { s with inbox := rest } := by
  obtain ⟨m, ms, htodo⟩ := List.exists_cons_of_ne_nil ht
  simp [advance, htodo, h, hin]

/-- Settles O10, by what falls inside the running command: nothing, something later, or something now. -/
theorem stepGoesOnWithCommand : Obligations.StepGoesOnWithCommand := by
  intro s hp hb ht
  rw [step_of_busy hp hb]
  refine ⟨fun h => advance_to_end ht (State.interruptAt_eq_none h), fun a rest ha => ⟨fun k hin => ?_, fun hin => ?_⟩⟩
  · exact advance_to_interruption ht (State.interruptAt_eq_some hin ha) hin
  · exact advance_at_interruption ht (State.interruptAt_eq_some hin ha) hin

end Sys2Proof.Machine
end

section
/-! PROOFS. The family 10_state, the parts of a command: the body of each script and its completion, and what they leave
unchanged (R24, R25, R27, R56). -/

namespace Sys2Proof.Machine

/-! ## The parts of a command -/

/-- What stands in a host command's script between its acceptance and its completion. -/
def commandBody : Instr → State → List Action
  | .init cval, s =>
    [.resetPulse, .emit .cmd (fsetByte false false true), .emit .cmd (biasByte s.par.bias),
      .emit .cmd (vopByte (contrast7 s.par.contrastMode cval)), .emit .cmd (fsetByte false false false),
      .emit .cmd (dctlByte true false)]
  | .send m v, _ => [.emit m v]
  | .setaddr col bank, _ => [.emit .cmd (xAddrByte col), .emit .cmd (yAddrByte bank)]
  | .write v, _ => [.emit .data v]
  | .flush, s => .emit .cmd (xAddrByte 0#7) :: .emit .cmd (yAddrByte 0#3) :: (flushWalk s ++ [.op (.seqAt 0 0)])
  | .clear, _ => (List.range 504).map fun i => .op (.store i 0x00#8)
  | .setpx c x y, s =>
    if inBounds x y then
      [.op (.store (pixelIndex x.toNat y.toNat)
        (setLane (s.fbRead (pixelIndex x.toNat y.toNat)) (y.toNat % 8) c))]
    else []
  | _, _ => []

/-- What a host command leaves for the host as it completes (R121, R160). -/
def finishOf : Instr → State → Finish
  | .init cval, s => .init (contrast7 s.par.contrastMode cval)
  | .getpx x y, s => .rdata (pixelWord x y s)
  | _, _ => .plain

/-- Does the command write the framebuffer? CLEAR and SETPX do (R56). -/
def storesFb : Instr → Bool
  | .clear => true
  | .setpx _ _ _ => true
  | _ => false

/-- An action that may stand between acceptance and completion: a frame, the reset pulse, a stop of the walk in its
ranges, and, for a command that writes the framebuffer, a store inside it. -/
def Action.inBody (stores : Bool) : Action → Bool
  | .op (.seqAt bank col) => decide (bank < 6) && decide (col < 84)
  | .op (.store i _) => stores && decide (i < 504)
  | .op _ => false
  | .emit _ _ => true
  | .resetPulse => true

/-- A host command's script: the acceptance of its word, its body, its completion (R23). -/
theorem scriptOf_eq {i : Instr} (hi : i.isHost = true) (s : State) :
    scriptOf i s = .op (.accept (hostWord i) (clearsInit i)) :: (commandBody i s ++ [.op (.done (finishOf i s))]) := by
  cases i
  case flush => simp [scriptOf, scriptFlush, commandBody, clearsInit, finishOf]
  case fset | dctl | yaddr | xaddr | tempco | bias | vop | data => cases hi
  all_goals rfl

/-- A pixel in bounds lies in the framebuffer (R51). -/
theorem pixelIndex_lt {x y : Int} (h : inBounds x y = true) : pixelIndex x.toNat y.toNat < 504 := by
  simp only [inBounds, Bool.and_eq_true, decide_eq_true_eq] at h
  simp only [pixelIndex, fbIndex]
  omega

theorem commandBody_inBody (i : Instr) (s : State) : (commandBody i s).all (Action.inBody (storesFb i)) = true := by
  cases i
  case flush =>
    simp +contextual [commandBody, flushWalk, flushColumn, Action.inBody]
  case clear => simp [commandBody, Action.inBody, storesFb]
  case setpx c x y =>
    simp only [commandBody]
    split
    next h => simp [Action.inBody, storesFb, pixelIndex_lt h]
    next => rfl
  all_goals rfl

theorem mem_commandBody {i : Instr} {s : State} {a : Action} (h : a ∈ commandBody i s) :
    a.inBody (storesFb i) = true :=
  List.all_eq_true.mp (commandBody_inBody i s) a h

/-- What every action of a list keeps, the list keeps. -/
theorem runActions_keeps {P : State → Prop} {as : List Action} {s : State} (hs : P s)
    (h : ∀ a ∈ as, ∀ u, P u → P (a.run u)) : P (runActions as s) :=
  List.foldlRecOn as _ hs fun u hu a ha => h a ha u hu

/-- What every micro-step of a list keeps, the list keeps. -/
theorem runMicros_keeps {P : State → Prop} {ms : List Micro} {s : State} (hs : P s)
    (h : ∀ m ∈ ms, ∀ u, P u → P (m.run u)) : P (runMicros ms s) :=
  List.foldlRecOn ms _ hs fun u hu m hm => h m hm u hu

/-! ## What a command's body leaves unchanged -/

/-- An action of a body changes nothing a host can read. -/
theorem Action.run_hostView {b : Bool} {a : Action} (h : a.inBody b = true) (u : State) :
    (a.run u).hostView = u.hostView := by
  cases a with
  | op m =>
    cases m
    case seqAt | store => rfl
    all_goals cases h
  | emit m b => rfl
  | resetPulse => rfl

theorem commandBody_hostView (i : Instr) (s u : State) : (runActions (commandBody i s) u).hostView = u.hostView :=
  runActions_keeps (P := fun t => t.hostView = u.hostView) rfl fun _ ha t ht =>
    (Action.run_hostView (mem_commandBody ha) t).trans ht

/-- An action of a body that stores nothing leaves the framebuffer. -/
theorem Action.run_fb {a : Action} (h : a.inBody false = true) (u : State) : (a.run u).fb = u.fb := by
  cases a with
  | op m =>
    cases m
    case seqAt => rfl
    all_goals cases h
  | emit m b => rfl
  | resetPulse => rfl

theorem commandBody_fb {i : Instr} (hi : storesFb i = false) (s u : State) :
    (runActions (commandBody i s) u).fb = u.fb :=
  runActions_keeps (P := fun t => t.fb = u.fb) rfl fun _ ha t ht =>
    (Action.run_fb (hi ▸ mem_commandBody ha) t).trans ht

/-! ## The frame of a whole command -/

theorem runActions_scriptOf {i : Instr} (hi : i.isHost = true) (s : State) :
    runActions (scriptOf i s) s = (Micro.done (finishOf i s)).run
      (runActions (commandBody i s) ((Micro.accept (hostWord i) (clearsInit i)).run s)) := by
  rw [scriptOf_eq hi, runActions_cons, runActions_append]
  rfl

/-- What the host reads just before a command completes: BUSY = 1, INIT = 0 for an INIT, and the rest as it was. -/
theorem hostView_before_done (i : Instr) (s : State) :
    (runActions (commandBody i s) ((Micro.accept (hostWord i) (clearsInit i)).run s)).hostView =
      ({ s.status with busy := true, init := s.status.init && !clearsInit i }, s.rdata, s.contrast) :=
  commandBody_hostView i s _

/-- A command other than INIT keeps STATUS.INIT and CONTRAST. -/
theorem runActions_scriptOf_init {i : Instr} (hi : i.isHost = true) (hne : ∀ c, i ≠ .init c) (s : State) :
    (runActions (scriptOf i s) s).status.init = s.status.init ∧ (runActions (scriptOf i s) s).contrast = s.contrast := by
  have hview := hostView_before_done i s
  rw [runActions_scriptOf hi]
  generalize runActions (commandBody i s) _ = u at hview
  simp only [State.hostView, Prod.mk.injEq] at hview
  obtain ⟨hstatus, -, hcontrast⟩ := hview
  cases i
  case init c => exact absurd rfl (hne c)
  all_goals simp [Micro.run, finishOf, hstatus, hcontrast, clearsInit]

/-- A command other than GETPX keeps RDATA. -/
theorem runActions_scriptOf_rdata {i : Instr} (hi : i.isHost = true) (hne : ∀ x y, i ≠ .getpx x y) (s : State) :
    (runActions (scriptOf i s) s).rdata = s.rdata := by
  have hview := hostView_before_done i s
  rw [runActions_scriptOf hi]
  generalize runActions (commandBody i s) _ = u at hview
  simp only [State.hostView, Prod.mk.injEq] at hview
  obtain ⟨-, hrdata, -⟩ := hview
  cases i
  case getpx x y => exact absurd rfl (hne x y)
  all_goals exact hrdata

/-- A command other than CLEAR and SETPX keeps the framebuffer. -/
theorem runActions_scriptOf_fb {i : Instr} (hi : i.isHost = true) (hfb : storesFb i = false) (s : State) :
    (runActions (scriptOf i s) s).fb = s.fb := by
  rw [runActions_scriptOf hi]
  exact (Finish.run_fb _ _).trans (commandBody_fb hfb s _)

theorem storesFb_eq_false {i : Instr} (hclear : i ≠ .clear) (hsetpx : ∀ c x y, i ≠ .setpx c x y) :
    storesFb i = false := by
  cases i
  case clear => exact absurd rfl hclear
  case setpx c x y => exact absurd rfl (hsetpx c x y)
  all_goals rfl

/-- Settles O30, by whether the instruction is a wire frame, a command the block does not accept, or one it does. -/
theorem onlyTheNamedCommandsWrite : Obligations.OnlyTheNamedCommandsWrite := by
  intro i s t h
  cases hi : i.isHost
  case false =>
    obtain ⟨l, hl⟩ := exec_wire hi s
    obtain rfl := Host.Outcome.next.inj (hl.symm.trans h)
    exact ⟨fun _ => ⟨rfl, rfl⟩, fun _ => rfl, fun _ _ _ => rfl, nofun, fun _ => rfl, rfl, rfl, rfl, rfl, rfl, rfl, rfl⟩
  case true =>
    obtain rfl := Host.Outcome.next.inj ((exec_host hi s).symm.trans h)
    split
    case isFalse =>
      exact ⟨fun _ => ⟨rfl, rfl⟩, fun _ => rfl, fun _ _ _ => rfl, fun _ => rfl, nofun, rfl, rfl, rfl, rfl, rfl, rfl, rfl⟩
    case isTrue =>
      refine ⟨fun hne => runActions_scriptOf_init hi hne s, fun hne => runActions_scriptOf_rdata hi hne s,
        fun hclear hsetpx a => ?_, fun _ => runActions_lcd _ _, nofun, by simp⟩
      simp only [State.fbRead, runActions_draw, runActions_scriptOf_fb hi (storesFb_eq_false hclear hsetpx)]

end Sys2Proof.Machine
end

section
/-! PROOFS. The family 10_state, the ranges of the state: every operation of the machine keeps them (R22, R24, R25, R28,
R50, R200, R241). -/

namespace Sys2Proof.Machine

/-! ## The controller -/

theorem decodeFrame_isHost {h : Bool} {f : FrameBits} {i : Instr} (hd : decodeFrame h f = .ok i) : i.isHost = false := by
  unfold decodeFrame decodeExtended decodeNormal at hd
  repeat' split at hd
  all_goals cases hd
  all_goals rfl

/-- A wire frame's meaning is its effect on the controller. -/
theorem exec_wire_eq {i : Instr} (hi : i.isHost = false) (s : State) :
    exec i s = .next { s with lcd := Lcd.apply i s.lcd } := by
  cases i
  case init | send | setaddr | write | flush | clear | setpx | getpx => cases hi
  all_goals rfl

/-- Delivering an event is one step of the reference decoder (R214). -/
theorem deliver_eq (e : WireEvent) (s : State) : deliver e s = .next { s with lcd := s.lcd.event e } := by
  cases e with
  | frame m b =>
    cases hl : s.lcd with
    | undef =>
      simp only [deliver, hl, Lcd.event, Lcd.frame]
      rw [← hl]
    | known r =>
      cases hd : decodeFrame r.h (frameBits m b) with
      | ok i => simp [deliver, hl, hd, Lcd.event, Lcd.frame, exec_wire_eq (decodeFrame_isHost hd)]
      | error _ => simp [deliver, hl, hd, Lcd.event, Lcd.frame]
  | resetPulse => rfl
  | cut => rfl
  | blockReset => rfl

@[simp] theorem Lcd.ok_undef : Lcd.undef.ok = true := rfl

@[simp] theorem Lcd.ok_known (r : LcdRegs) : (Lcd.known r).ok = true ↔ r.x < 84 ∧ r.y < 6 ∧ r.ddram.wf = true := by
  simp [Lcd.ok, and_assoc]

/-- The address counter of a pointer in range lies in the display memory (R200). -/
theorem fbIndex_lt {bank col : Nat} (hb : bank < 6) (hc : col < 84) : fbIndex bank col < 504 := by
  unfold fbIndex
  omega

/-- A frame with a meaning keeps the controller in its ranges if that meaning does. -/
theorem Lcd.ok_take {f : LcdRegs → Lcd} (hf : ∀ r, (Lcd.known r).ok = true → (f r).ok = true) {l : Lcd}
    (hl : l.ok = true) : (l.take f).ok = true := by
  cases l with
  | undef => rfl
  | known r =>
    simp only [Lcd.take]
    split
    · rfl
    · exact hf r hl

theorem LcdRegs.ok_setX {r : LcdRegs} (hr : (Lcd.known r).ok = true) (col : BitVec 7) : (r.setX col).ok = true := by
  simp only [Lcd.ok_known] at hr
  unfold LcdRegs.setX
  split
  next hcol => exact (Lcd.ok_known _).mpr ⟨hcol, hr.2⟩
  next => rfl

theorem LcdRegs.ok_setVop {r : LcdRegs} (hr : (Lcd.known r).ok = true) (v : BitVec 7) : (r.setVop v).ok = true := hr

theorem LcdRegs.ok_advance {r : LcdRegs} (hr : (Lcd.known r).ok = true) : (Lcd.known r.advance).ok = true := by
  simp only [Lcd.ok_known] at hr ⊢
  obtain ⟨hx, hy, hdd⟩ := hr
  unfold LcdRegs.advance
  split
  · refine ⟨by simp, ?_, hdd⟩
    dsimp only
    split <;> omega
  · exact ⟨by dsimp only; omega, hy, hdd⟩

/-- Every wire frame keeps the controller in its ranges (R200, R205, R206, R211). -/
theorem Lcd.ok_apply {l : Lcd} (hl : l.ok = true) (i : Instr) : (Lcd.apply i l).ok = true := by
  cases i
  case fset =>
    refine Lcd.ok_take (fun r hr => ?_) hl
    exact hr
  case dctl =>
    refine Lcd.ok_take (fun r hr => ?_) hl
    split
    · rfl
    · exact hr
  case yaddr bank =>
    refine Lcd.ok_take (fun r hr => ?_) hl
    simp only [Lcd.ok_known] at hr
    split
    · rfl
    · split
      next hbank => exact (Lcd.ok_known _).mpr ⟨hr.1, hbank, hr.2.2⟩
      next => rfl
  case xaddr col | vop col =>
    refine Lcd.ok_take (fun r hr => ?_) hl
    split
    · exact LcdRegs.ok_setVop hr col
    · exact LcdRegs.ok_setX hr col
  case tempco | bias =>
    refine Lcd.ok_take (fun r hr => ?_) hl
    split
    · exact hr
    · rfl
  case data b =>
    refine Lcd.ok_take (fun r hr => LcdRegs.ok_advance ?_) hl
    simp only [Lcd.ok_known] at hr ⊢
    obtain ⟨hx, hy, hdd⟩ := hr
    exact ⟨hx, hy, Memory.wf_write _ b hdd (fbIndex_lt hy hx)⟩
  all_goals exact hl

/-- Every event of the wire leaves the controller in its ranges. -/
theorem Lcd.ok_event {l : Lcd} (hl : l.ok = true) (e : WireEvent) : (l.event e).ok = true := by
  cases e with
  | frame m b =>
    cases l with
    | undef => rfl
    | known r =>
      simp only [Lcd.event, Lcd.frame]
      split
      · exact Lcd.ok_apply hl _
      · rfl
  | resetPulse => rfl
  | cut => rfl
  | blockReset => rfl

/-! ## The scripts are legal -/

theorem pixelWord_le_one (x y : Int) (s : State) : (pixelWord x y s).toNat ≤ 1 := by
  unfold pixelWord
  split
  · cases s.pixel x.toNat y.toNat <;> decide
  · decide

theorem finishOf_legal (i : Instr) (s : State) : (Micro.done (finishOf i s)).legal = true := by
  cases i
  case getpx x y => exact decide_eq_true (pixelWord_le_one x y s)
  all_goals rfl

theorem Action.micros_legal {b : Bool} {a : Action} (h : a.inBody b = true) : a.micros.all Micro.legal = true := by
  cases a with
  | op m =>
    cases m
    case seqAt => simpa [Action.micros, Micro.legal, Action.inBody] using h
    case store =>
      simp only [Action.inBody, Bool.and_eq_true] at h
      simpa [Action.micros, Micro.legal] using h.2
    all_goals cases h
  | emit m b => rfl
  | resetPulse => rfl

/-- Every micro-step of every command is legal: in the framebuffer, in the walk, in RDATA's one bit (R10, R24, R28). -/
theorem scriptMicros_legal {i : Instr} (hi : i.isHost = true) (s : State) :
    (scriptMicros (scriptOf i s)).all Micro.legal = true := by
  have hbody : (scriptMicros (commandBody i s)).all Micro.legal = true := by
    rw [scriptMicros, List.all_flatMap]
    exact List.all_eq_true.mpr fun a ha => Action.micros_legal (mem_commandBody ha)
  have haccept : (Micro.accept (hostWord i) (clearsInit i)).legal = true := rfl
  rw [scriptOf_eq hi, scriptMicros_cons, scriptMicros_append, scriptMicros_op]
  simp [Action.micros, haccept, hbody, finishOf_legal]

/-! ## Every operation keeps the ranges -/

/-- STATUS is in its range by FAULT and CAUSE alone. -/
theorem Status.ok_congr {st st' : Status} (hf : st'.fault = st.fault) (hc : st'.cause = st.cause) (h : st.ok = true) :
    st'.ok = true := by
  rwa [Status.ok, hf, hc]

theorem Status.ok_record {st : Status} (h : st.ok = true) (c : Cause) : (st.record c).ok = true := by
  simp only [Status.ok, Bool.and_eq_true, decide_eq_true_eq] at h
  unfold Status.record Status.ok
  by_cases hc : st.cause = 0#4
  · cases c <;> simp [hc, Cause.code]
  · simp [hc, h.1]

theorem Micro.run_ranges {m : Micro} (hm : m.legal = true) {s : State} (h : s.Ranges) : (m.run s).Ranges := by
  obtain ⟨hfb, hstatus, hrdata, hcontrast, hbank, hcol, hlcd, htodo⟩ := h
  cases m
  case store i b => exact ⟨Memory.wf_write _ b hfb (of_decide_eq_true hm), hstatus, hrdata, hcontrast, hbank, hcol, hlcd, htodo⟩
  case seqAt bank col =>
    simp only [Micro.legal, Bool.and_eq_true, decide_eq_true_eq] at hm
    exact ⟨hfb, hstatus, hrdata, hcontrast, hm.1, hm.2, hlcd, htodo⟩
  case accept => exact ⟨hfb, Status.ok_congr rfl rfl hstatus, hrdata, hcontrast, hbank, hcol, hlcd, htodo⟩
  case done f =>
    have hst := Status.ok_congr (st' := (Micro.run (.done f) s).status) (Finish.run_fault f s) (Finish.run_cause f s) hstatus
    cases f with
    | plain => exact ⟨hfb, hst, hrdata, hcontrast, hbank, hcol, hlcd, htodo⟩
    | rdata v => exact ⟨hfb, hst, of_decide_eq_true hm, hcontrast, hbank, hcol, hlcd, htodo⟩
    | init c =>
      refine ⟨hfb, hst, hrdata, ?_, hbank, hcol, hlcd, htodo⟩
      have hc := c.isLt
      simp only [Micro.run, Finish.run, BitVec.toNat_setWidth]
      omega
  all_goals exact ⟨hfb, hstatus, hrdata, hcontrast, hbank, hcol, hlcd, htodo⟩

theorem runMicros_ranges {ms : List Micro} (hms : ms.all Micro.legal = true) {s : State} (h : s.Ranges) :
    (runMicros ms s).Ranges :=
  runMicros_keeps h fun m hm _ hu => Micro.run_ranges (List.all_eq_true.mp hms m hm) hu

/-- Another rest of a command and other host's actions, if its micro-steps are legal. -/
theorem State.Ranges.withTodo {s : State} (h : s.Ranges) {td : List Micro} (htd : td.all Micro.legal = true)
    (inb : List Input) : ({ s with todo := td, inbox := inb } : State).Ranges :=
  { h with todo := htd }

theorem State.raiseFault_ranges {s : State} (h : s.Ranges) (c : Cause) : (s.raiseFault c).Ranges :=
  { h with status := Status.ok_record h.status c }

theorem State.blockReset_ranges {s : State} (h : s.Ranges) : s.blockReset.Ranges :=
  ⟨rfl, rfl, Nat.zero_le 1, Nat.zero_lt_succ _, Nat.zero_lt_succ _, Nat.zero_lt_succ _, h.lcd, rfl⟩

theorem isHost_of_accepts {i : Instr} {s : State} (h : accepts i s = true) : i.isHost = true := by
  cases i
  case fset | dctl | yaddr | xaddr | tempco | bias | vop | data => cases h
  all_goals rfl

theorem exec_ranges {i : Instr} (hi : i.isHost = true) {s t : State} (h : s.Ranges) (ht : exec i s = .next t) :
    t.Ranges := by
  obtain rfl := Host.Outcome.next.inj ((exec_host hi s).symm.trans ht)
  split
  · rw [← microsRefineTransactions]
    exact runMicros_ranges (scriptMicros_legal hi s) h
  · exact State.raiseFault_ranges h _

theorem all_take {α : Type} {p : α → Bool} {l : List α} (h : l.all p = true) (n : Nat) : (l.take n).all p = true :=
  List.all_eq_true.mpr fun a ha => List.all_eq_true.mp h a (List.mem_of_mem_take ha)

theorem all_drop {α : Type} {p : α → Bool} {l : List α} (h : l.all p = true) (n : Nat) : (l.drop n).all p = true :=
  List.all_eq_true.mpr fun a ha => List.all_eq_true.mp h a (List.mem_of_mem_drop ha)

theorem State.begin_ranges {i : Instr} {s : State} (h : s.Ranges) : (s.begin i).Ranges := by
  unfold State.begin
  split
  next ha =>
    have hlegal := scriptMicros_legal (isHost_of_accepts ha) s
    exact (runMicros_ranges (all_take hlegal 1) h).withTodo (all_drop hlegal 1) _
  next => exact State.raiseFault_ranges h _

theorem accept_ranges {w : Word} {s t : State} (h : s.Ranges) (ht : accept w s = .next t) : t.Ranges := by
  obtain ⟨-, rfl⟩ | ⟨i, -, -, rfl⟩ | ⟨i, hd, -, he⟩ := accept_next ht
  · exact State.raiseFault_ranges h _
  · exact State.begin_ranges h
  · exact exec_ranges (decodeHost_isHost hd) h he

theorem perform_ranges {a : Act} {s t : State} (h : s.Ranges) (ht : perform a s = .next t) : t.Ranges := by
  obtain ⟨-, rfl⟩ | ⟨off, rfl⟩ | ⟨v, -, rfl⟩ | ⟨v, -, ha⟩ | rfl := perform_next ht
  · exact State.blockReset_ranges h
  · exact { h with }
  · exact { h with }
  · exact accept_ranges h ha
  · exact h

theorem advance_ranges {s t : State} (h : s.Ranges) (ht : advance s = .next t) : t.Ranges := by
  obtain ⟨-, rfl⟩ | ⟨i, rest, -, -, hp⟩ | ⟨k, inb, -, rfl⟩ := advance_next ht
  · exact (runMicros_ranges h.todo h).withTodo rfl _
  · exact perform_ranges (s := { s with inbox := rest }) { h with } hp
  · exact (runMicros_ranges (all_take h.todo _) h).withTodo (all_drop h.todo _) inb

/-- Settles O51, by who moves in the step: the controller, the running command, a held write, or the outside. -/
theorem stepKeepsRanges : Obligations.StepKeepsRanges := by
  intro s t h hstep
  obtain ⟨e, rest, -, hd⟩ | ⟨-, -, ha⟩ | ⟨w, -, -, -, hacc⟩ | ⟨i, rest, -, -, -, -, hp⟩ | ⟨-, -, -, -, rfl⟩ := step_next hstep
  · obtain rfl := Host.Outcome.next.inj ((deliver_eq e _).symm.trans hd)
    exact { h with lcd := Lcd.ok_event h.lcd e }
  · exact advance_ranges h ha
  · exact accept_ranges (s := { s with held := none }) { h with } hacc
  · exact perform_ranges (s := { s with inbox := rest }) { h with } hp
  · exact h

/-- Settles O52: the reset state's memories are empty and its registers 0. -/
theorem resetInRanges : Obligations.ResetInRanges :=
  ⟨State.reset_fb_wf, rfl, by decide, by decide, by decide, by decide, rfl, rfl⟩

end Sys2Proof.Machine
end

section
/-! PROOFS. The family 10_state, truthful BUSY: every operation of the machine keeps it (R22, R23, R28, R31, R291). -/

namespace Sys2Proof.Machine

/-! ## What BUSY's truth depends on -/

/-- BUSY, BITCNT, the walk and the pins: with the rest of the running command, all that BUSY's truth depends on. -/
def State.busView (s : State) : Bool × Nat × Nat × Nat × Pins := (s.status.busy, s.bitcnt, s.seqBank, s.seqCol, s.pins)

theorem State.busView_eq_iff {s t : State} : t.busView = s.busView ↔
    t.status.busy = s.status.busy ∧ t.bitcnt = s.bitcnt ∧ t.seqBank = s.seqBank ∧ t.seqCol = s.seqCol ∧
      t.pins = s.pins := by
  simp [State.busView]

/-- A micro-step changes the bus view by the bus view alone. -/
theorem Micro.run_busView (m : Micro) {s t : State} (h : t.busView = s.busView) :
    (m.run t).busView = (m.run s).busView := by
  rw [State.busView_eq_iff] at h ⊢
  obtain ⟨hbusy, hbitcnt, hbank, hcol, hpins⟩ := h
  cases m
  all_goals simp [Micro.run, hbusy, hbitcnt, hbank, hcol, hpins]

theorem runMicros_busView (ms : List Micro) {s t : State} (h : t.busView = s.busView) :
    (runMicros ms t).busView = (runMicros ms s).busView := by
  induction ms generalizing s t with
  | nil => exact h
  | cons m ms ih => exact ih (Micro.run_busView m h)

theorem State.Idle.congr {s t : State} (h : s.Idle) (hv : t.busView = s.busView) (ht : t.todo = []) : t.Idle := by
  obtain ⟨hbusy, hbitcnt, hbank, hcol, hpins⟩ := State.busView_eq_iff.mp hv
  exact ⟨hbusy.trans h.busy, ht, hbitcnt ▸ h.bitcnt, hbank.trans h.seqBank, hcol.trans h.seqCol, hpins ▸ h.sceN,
    hpins ▸ h.sclk, hpins ▸ h.rstN⟩

theorem State.Idle.busyTrue {s : State} (h : s.Idle) : s.BusyTrue := .inl ⟨h.busy, h⟩

theorem State.BusyTrue.idle {s : State} (h : s.BusyTrue) (hb : s.status.busy = false) : s.Idle := by
  obtain ⟨-, hidle⟩ | ⟨hbusy, -⟩ := h
  · exact hidle
  · exact absurd (hb.symm.trans hbusy) Bool.false_ne_true

/-- BUSY's truth is a matter of the bus view and the rest of the command alone. -/
theorem State.BusyTrue.congr {s t : State} (h : s.BusyTrue) (hv : t.busView = s.busView) (ht : t.todo = s.todo) :
    t.BusyTrue := by
  have hrun (k : Nat) := State.busView_eq_iff.mp (runMicros_busView (s.todo.take k) hv)
  obtain ⟨hbusy, -⟩ := State.busView_eq_iff.mp hv
  obtain ⟨-, hidle⟩ | ⟨hb, htodo, hstays, hfits, hends⟩ := h
  · exact (hidle.congr hv (ht.trans hidle.todo)).busyTrue
  · refine .inr ⟨hbusy.trans hb, ht ▸ htodo, fun k hk => ?_, fun k => ?_, hends.congr ?_ rfl⟩
    · rw [ht] at hk ⊢
      exact (hrun k).1.trans (hstays k hk)
    · rw [ht]
      exact (hrun k).2.1 ▸ hfits k
    · simp only [State.finished, ht]
      exact runMicros_busView s.todo hv

/-! ## BITCNT along micro-steps -/

/-- BITCNT stays in 0..8 before, between and after the micro-steps. -/
def BitcntFits (ms : List Micro) (s : State) : Prop := ∀ k, (runMicros (ms.take k) s).bitcnt ≤ 8

theorem BitcntFits.final {ms : List Micro} {s : State} (h : BitcntFits ms s) : (runMicros ms s).bitcnt ≤ 8 := by
  simpa using h ms.length

theorem bitcntFits_nil {s : State} : BitcntFits [] s ↔ s.bitcnt ≤ 8 := by
  simp [BitcntFits, runMicros_nil]

theorem bitcntFits_cons {m : Micro} {ms : List Micro} {s : State} :
    BitcntFits (m :: ms) s ↔ s.bitcnt ≤ 8 ∧ BitcntFits ms (m.run s) := by
  refine ⟨fun h => ⟨h 0, fun k => h (k + 1)⟩, fun ⟨hs, hms⟩ k => ?_⟩
  cases k with
  | zero => exact hs
  | succ k => exact hms k

theorem BitcntFits.append {as bs : List Micro} {s : State} (ha : BitcntFits as s) (hb : BitcntFits bs (runMicros as s)) :
    BitcntFits (as ++ bs) s := by
  induction as generalizing s with
  | nil => exact hb
  | cons a as ih =>
    obtain ⟨hs, has⟩ := bitcntFits_cons.mp ha
    exact bitcntFits_cons.mpr ⟨hs, ih has hb⟩

/-- The bits of a frame count up from BITCNT, one each (R101). -/
theorem bitcntFits_bits {bits : List Bool} {s : State} (h : s.bitcnt + bits.length ≤ 8) :
    BitcntFits (bits.flatMap bitMicros) s := by
  induction bits generalizing s with
  | nil => exact bitcntFits_nil.mpr h
  | cons b bits ih =>
    rw [List.length_cons] at h
    rw [List.flatMap_cons]
    refine BitcntFits.append ?_ (ih ?_)
    · simp only [bitMicros, bitcntFits_cons, bitcntFits_nil, Micro.run]
      omega
    · simp only [runMicros_bitMicros, State.bitsOut]
      omega

/-- A frame loads BITCNT with 0 and counts its eight bits (R101). -/
theorem bitcntFits_emitMicros (m : Mode) (b : Byte) {s : State} (h : s.bitcnt ≤ 8) : BitcntFits (emitMicros m b) s := by
  refine BitcntFits.append (BitcntFits.append ?_ (bitcntFits_bits ?_)) ?_
  · simp [bitcntFits_cons, bitcntFits_nil, Micro.run, h]
  · simp [runMicros_cons, runMicros_nil, Micro.run, bitsMsbFirst]
  · have hbits : (runMicros ((bitsMsbFirst b).flatMap bitMicros)
        (runMicros [.pin .dc m.bit, .pin .sceN false, .wait .setup, .load b] s)).bitcnt ≤ 8 :=
      (bitcntFits_bits (by simp [runMicros_cons, runMicros_nil, Micro.run, bitsMsbFirst])).final
    rw [runMicros_append]
    simp [bitcntFits_cons, bitcntFits_nil, Micro.run, hbits]

/-! ## A whole command on an idle block -/

theorem Action.bitcntFits {b : Bool} {a : Action} (ha : a.inBody b = true) {s : State} (h : s.bitcnt ≤ 8) :
    BitcntFits a.micros s := by
  cases a with
  | op m =>
    cases m
    case seqAt | store => exact bitcntFits_cons.mpr ⟨h, bitcntFits_nil.mpr h⟩
    all_goals cases ha
  | emit m b => exact bitcntFits_emitMicros m b h
  | resetPulse => simp [Action.micros, pulseMicros, bitcntFits_cons, bitcntFits_nil, Micro.run, h]

theorem bitcntFits_body {b : Bool} {as : List Action} (has : ∀ a ∈ as, a.inBody b = true) {s : State}
    (h : s.bitcnt ≤ 8) : BitcntFits (scriptMicros as) s := by
  induction as generalizing s with
  | nil => exact bitcntFits_nil.mpr h
  | cons a as ih =>
    have ha := Action.bitcntFits (has a List.mem_cons_self) h
    exact ha.append (ih (fun a' h' => has a' (List.mem_cons_of_mem a h')) ha.final)

/-- BITCNT stays in 0..8 from a command's acceptance to its completion (R28). -/
theorem bitcntFits_scriptOf {i : Instr} (hi : i.isHost = true) {s : State} (h : s.bitcnt ≤ 8) :
    BitcntFits (scriptMicros (scriptOf i s)) s := by
  have hbody := bitcntFits_body (fun a ha => mem_commandBody (i := i) (s := s) ha)
    (s := (Micro.accept (hostWord i) (clearsInit i)).run s) h
  have hdone : BitcntFits [Micro.done (finishOf i s)] _ :=
    bitcntFits_cons.mpr ⟨hbody.final, bitcntFits_nil.mpr ((Finish.run_bitcnt _ _).trans_le hbody.final)⟩
  rw [scriptOf_eq hi, scriptMicros_cons, scriptMicros_append, scriptMicros_op]
  exact bitcntFits_cons.mpr ⟨h, hbody.append hdone⟩

/-- The three bus pins with an idle level, at it (R31). -/
def Pins.idle (p : Pins) : Prop := p.sceN = true ∧ p.sclk = false ∧ p.rstN = true

/-- Every whole action of a body leaves the bus idle (R31, R101, R121). -/
theorem Action.run_idlePins {b : Bool} {a : Action} (ha : a.inBody b = true) {s : State} (h : s.pins.idle) :
    (a.run s).pins.idle := by
  obtain ⟨hsceN, hsclk, hrstN⟩ := h
  cases a with
  | op m =>
    cases m
    case seqAt | store => exact ⟨hsceN, hsclk, hrstN⟩
    all_goals cases ha
  | emit m b => exact ⟨rfl, rfl, hrstN⟩
  | resetPulse => exact ⟨hsceN, hsclk, rfl⟩

theorem commandBody_idlePins (i : Instr) (s : State) {u : State} (h : u.pins.idle) :
    (runActions (commandBody i s) u).pins.idle :=
  runActions_keeps (P := fun t => t.pins.idle) h fun _ ha _ ht => Action.run_idlePins (mem_commandBody ha) ht

/-- The walk stands at its start. -/
def State.walkAtStart (s : State) : Prop := s.seqBank = 0 ∧ s.seqCol = 0

/-- A command's body leaves the walk at its start: only FLUSH moves it, and puts it back (R181). -/
theorem commandBody_walkAtStart (i : Instr) (s : State) {u : State} (h : u.walkAtStart) :
    (runActions (commandBody i s) u).walkAtStart := by
  have ⟨hbank, hcol⟩ := h
  cases i
  case flush =>
    rw [commandBody, runActions_cons, runActions_cons, runActions_append]
    generalize runActions (flushWalk s) _ = v
    exact ⟨rfl, rfl⟩
  case clear =>
    refine runActions_keeps (P := State.walkAtStart) h fun a ha t ht => ?_
    obtain ⟨k, -, rfl⟩ := List.mem_map.mp ha
    exact ht
  case setpx c x y =>
    simp only [commandBody]
    split <;> exact ⟨hbank, hcol⟩
  all_goals simp [commandBody, runActions_cons, runActions_nil, Action.run, State.walkAtStart, hbank, hcol]

/-- A command on an idle block leaves it idle (R23, R31, R291). -/
theorem runActions_scriptOf_idle {i : Instr} (hi : i.isHost = true) {s : State} (h : s.Idle) :
    (runActions (scriptOf i s) s).Idle := by
  have hbit : (runActions (scriptOf i s) s).bitcnt ≤ 8 := by
    rw [← microsRefineTransactions]
    exact (bitcntFits_scriptOf hi h.bitcnt).final
  have hpins := commandBody_idlePins i s (u := (Micro.accept (hostWord i) (clearsInit i)).run s) ⟨h.sceN, h.sclk, h.rstN⟩
  have hwalk := commandBody_walkAtStart i s (u := (Micro.accept (hostWord i) (clearsInit i)).run s) ⟨h.seqBank, h.seqCol⟩
  have hrun := runActions_scriptOf hi s
  generalize runActions (commandBody i s) _ = u at hpins hwalk hrun
  obtain ⟨hsceN, hsclk, hrstN⟩ := hpins
  obtain ⟨hbank, hcol⟩ := hwalk
  refine ⟨?_, (runActions_todo _ _).trans h.todo, hbit, ?_, ?_, ?_, ?_, ?_⟩
  all_goals rw [hrun]
  all_goals simp [Micro.run, hbank, hcol, hsceN, hsclk, hrstN]

/-! ## Every operation keeps BUSY truthful -/

/-- Going on from a cut: the first `n` micro-steps, then `k` of those left. -/
theorem runMicros_take_drop (ms : List Micro) (s : State) (n k : Nat) :
    runMicros ((ms.drop n).take k) (runMicros (ms.take n) s) = runMicros (ms.take (n + k)) s := by
  rw [List.take_add, runMicros_append]

theorem runMicros_drop (ms : List Micro) (s : State) (n : Nat) :
    runMicros (ms.drop n) (runMicros (ms.take n) s) = runMicros ms s := by
  rw [← runMicros_append, List.take_append_drop]

/-- A command begun on an idle block is one in progress that ends idle. -/
theorem State.begin_busyTrue {i : Instr} {s : State} (ha : accepts i s = true) (h : s.Idle) : (s.begin i).BusyTrue := by
  have hi := isHost_of_accepts ha
  have hfits := bitcntFits_scriptOf hi h.bitcnt
  have hbegin : s.begin i =
      { runMicros ((scriptMicros (scriptOf i s)).take 1) s with todo := (scriptMicros (scriptOf i s)).drop 1 } := if_pos ha
  have hview (ms : List Micro) : (runMicros ms (s.begin i)).busView =
      (runMicros ms (runMicros ((scriptMicros (scriptOf i s)).take 1) s)).busView :=
    runMicros_busView ms (by rw [hbegin]; rfl)
  have htodo : (s.begin i).todo = (scriptMicros (scriptOf i s)).drop 1 := by rw [hbegin]
  have hne : (s.begin i).todo ≠ [] := by
    obtain ⟨ms, f, -, hms⟩ := State.begin_of_accepts ha
    simp [hms]
  have hstays (k : Nat) (hk : k < (s.begin i).todo.length) :
      (runMicros ((s.begin i).todo.take k) (s.begin i)).status.busy = true :=
    congrArg (·.1.busy) (hostView_during ha hk)
  refine .inr ⟨hstays 0 (List.length_pos_iff.mpr hne), hne, hstays, fun k => ?_, ?_⟩
  · rw [htodo, (State.busView_eq_iff.mp (hview _)).2.1, runMicros_take_drop]
    exact hfits _
  · refine (runActions_scriptOf_idle hi h).congr ?_ rfl
    rw [← microsRefineTransactions, ← runMicros_drop _ _ 1, ← hview, ← htodo]
    rfl

theorem accept_busyTrue {w : Word} {s t : State} (h : s.Idle) (ht : accept w s = .next t) : t.BusyTrue := by
  have hfault (c : Cause) : (s.raiseFault c).BusyTrue := h.busyTrue.congr rfl rfl
  obtain ⟨-, rfl⟩ | ⟨i, hd, -, rfl⟩ | ⟨i, hd, -, he⟩ := accept_next ht
  · exact hfault _
  · cases ha : accepts i s
    · have hbegin : s.begin i = s.raiseFault .notInitialized := if_neg (by simp [ha])
      exact hbegin ▸ hfault _
    · exact State.begin_busyTrue ha h
  · have hi := decodeHost_isHost hd
    obtain rfl := Host.Outcome.next.inj ((exec_host hi s).symm.trans he)
    split
    · exact (runActions_scriptOf_idle hi h).busyTrue
    · exact hfault _

theorem State.blockReset_idle (s : State) : s.blockReset.Idle :=
  ⟨rfl, rfl, Nat.zero_le 8, rfl, rfl, rfl, rfl, rfl⟩

theorem perform_busyTrue {a : Act} {s t : State} (h : s.BusyTrue) (ht : perform a s = .next t) : t.BusyTrue := by
  obtain ⟨-, rfl⟩ | ⟨off, rfl⟩ | ⟨v, -, rfl⟩ | ⟨v, hb, ha⟩ | rfl := perform_next ht
  · exact s.blockReset_idle.busyTrue
  · exact h.congr rfl rfl
  · exact h.congr rfl rfl
  · exact accept_busyTrue (h.idle hb) ha
  · exact h

/-- A cut into a running command leaves it running, or ended if nothing is left of it. -/
theorem busyTrue_of_cut {s : State} (h : s.BusyTrue) (hb : s.status.busy = true) (n : Nat) (inb : List Input) :
    ({ runMicros (s.todo.take n) s with todo := s.todo.drop n, inbox := inb } : State).BusyTrue := by
  obtain ⟨hb', -⟩ | ⟨-, -, hstays, hfits, hends⟩ := h
  · exact absurd (hb'.symm.trans hb) Bool.false_ne_true
  generalize ht : ({ runMicros (s.todo.take n) s with todo := s.todo.drop n, inbox := inb } : State) = t
  have hview (ms : List Micro) : (runMicros ms t).busView = (runMicros ms (runMicros (s.todo.take n) s)).busView :=
    runMicros_busView ms (ht ▸ rfl)
  have htodo : t.todo = s.todo.drop n := ht ▸ rfl
  have hcut (k : Nat) : (runMicros (t.todo.take k) t).busView = (runMicros (s.todo.take (n + k)) s).busView := by
    rw [htodo, hview, runMicros_take_drop]
  have hidle : t.finished.Idle := by
    refine hends.congr ?_ rfl
    have hall : (runMicros t.todo t).busView = (runMicros s.todo s).busView := by
      rw [htodo, hview, runMicros_drop]
    exact hall
  by_cases hnil : t.todo = []
  · exact (State.finished_of_todo_nil hnil ▸ hidle).busyTrue
  · have hstays' (k : Nat) (hk : k < t.todo.length) : (runMicros (t.todo.take k) t).status.busy = true := by
      rw [(State.busView_eq_iff.mp (hcut k)).1]
      refine hstays _ ?_
      rw [htodo, List.length_drop] at hk
      omega
    refine .inr ⟨hstays' 0 (List.length_pos_iff.mpr hnil), hnil, hstays', fun k => ?_, hidle⟩
    rw [(State.busView_eq_iff.mp (hcut k)).2.1]
    exact hfits _

theorem advance_busyTrue {s t : State} (h : s.BusyTrue) (hb : s.status.busy = true) (ht : advance s = .next t) :
    t.BusyTrue := by
  obtain ⟨-, rfl⟩ | ⟨i, rest, -, -, hp⟩ | ⟨k, inb, -, rfl⟩ := advance_next ht
  · have hend := busyTrue_of_cut h hb s.todo.length s.inbox
    rw [List.take_length, List.drop_length] at hend
    exact hend.congr rfl rfl
  · exact perform_busyTrue (s := { s with inbox := rest }) (h.congr rfl rfl) hp
  · exact busyTrue_of_cut h hb (k + 1) inb

/-- Settles O53, by who moves in the step; the controller and the host's side play no part in BUSY's truth. -/
theorem stepKeepsBusyTrue : Obligations.StepKeepsBusyTrue := by
  intro s t h hstep
  obtain ⟨e, rest, -, hd⟩ | ⟨-, hb, ha⟩ | ⟨w, -, hb, -, hacc⟩ | ⟨i, rest, -, -, -, -, hp⟩ | ⟨-, -, -, -, rfl⟩ :=
    step_next hstep
  · obtain ⟨l, rfl⟩ := deliver_next hd
    exact h.congr rfl rfl
  · exact advance_busyTrue h hb ha
  · exact accept_busyTrue (s := { s with held := none }) ((h.idle hb).congr rfl (h.idle hb).todo) hacc
  · exact perform_busyTrue (s := { s with inbox := rest }) (h.congr rfl rfl) hp
  · exact h

/-- Settles O54: the reset state is idle. -/
theorem resetBusyTrue : Obligations.ResetBusyTrue :=
  State.Idle.busyTrue ⟨rfl, rfl, Nat.zero_le 8, rfl, rfl, rfl, rfl, rfl⟩

/-- Settles O56: no write waits, and STATUS.INIT is 0. -/
theorem resetPanelReady : Obligations.ResetPanelReady := by
  refine ⟨rfl, nofun, fun hinit => ?_⟩
  rw [State.finished_of_todo_nil rfl] at hinit
  cases hinit

end Sys2Proof.Machine
end

section
/-! PROOFS. The family 10_state, the register window: its four registers, STATUS as a word, the delivery and the hold of
a CMD write, and the state after reset (R21, R22, R26, R35, R57). -/

namespace Sys2Proof.Machine

/-! ## The four registers -/

/-- A 32-bit access at one of the four registers is inside the interface (R21, R57 to R60). -/
theorem windowOffset_register (base : Nat) {off : Nat} (hlt : off < 16) (halign : off % 4 = 0) :
    windowOffset base (base + off) 32 = .ok off := by
  simp [windowOffset, halign, hlt]

/-- A 32-bit read of a register answers what it holds and changes nothing else. -/
theorem perform_read (s : State) {off : Nat} (hlt : off < 16) (halign : off % 4 = 0) :
    perform (.access (.read (s.par.base + off) 32)) s = .next { s with replies := s.replies ++ [s.readReg off] } := by
  simp [perform, windowOffset_register s.par.base hlt halign]

/-- A 32-bit write of a register is the register's. -/
theorem perform_write (s : State) (v : Word) {off : Nat} (hlt : off < 16) (halign : off % 4 = 0) :
    perform (.access (.write (s.par.base + off) 32 v)) s = s.writeReg off v := by
  simp [perform, windowOffset_register s.par.base hlt halign]

/-- A register other than CMD ignores a write (R21). -/
theorem perform_write_readOnly (s : State) (v : Word) {off : Nat} (hne : off ≠ 0) (hlt : off < 16)
    (halign : off % 4 = 0) : perform (.access (.write (s.par.base + off) 32 v)) s = .next s :=
  (perform_write s v hlt halign).trans (if_neg hne)

/-- A CMD write on an idle block is delivered (R26). -/
theorem perform_write_cmd_idle {s : State} (hb : s.status.busy = false) (w : Word) :
    perform (.access (.write s.par.base 32 w)) s = accept w s := by
  rw [← Nat.add_zero s.par.base, perform_write s w (by decide) rfl]
  simp [State.writeReg, hb]

/-- A CMD write on a busy block is held (R26, R63). -/
theorem perform_write_cmd_busy {s : State} (hb : s.status.busy = true) (w : Word) :
    perform (.access (.write s.par.base 32 w)) s = .next { s with held := some w } := by
  rw [← Nat.add_zero s.par.base, perform_write s w (by decide) rfl]
  simp [State.writeReg, hb]

/-- Settles O12: each register's offset lies in the window, and only offset 0 takes a write. -/
theorem registerWindow : Obligations.RegisterWindow := by
  intro s v
  refine ⟨?_, ?_, ?_, ?_, ?_, ?_, ?_⟩
  · exact perform_read s (off := 0) (by decide) rfl
  · exact perform_read s (off := 4) (by decide) rfl
  · exact perform_read s (off := 8) (by decide) rfl
  · exact perform_read s (off := 12) (by decide) rfl
  · exact perform_write_readOnly s v (off := 4) (by decide) (by decide) rfl
  · exact perform_write_readOnly s v (off := 8) (by decide) (by decide) rfl
  · exact perform_write_readOnly s v (off := 12) (by decide) (by decide) rfl

/-! ## The delivery of a command word -/

/-- An idle block with nothing on the wire accepts a held word (R26). -/
theorem step_of_held {s : State} {w : Word} (hp : s.pending = []) (hb : s.status.busy = false) (hh : s.held = some w) :
    step s = accept w { s with held := none } := by
  simp [step, hp, hb, hh]

/-- An idle block with nothing on the wire and no held word takes the next outside action. -/
theorem step_of_input {s : State} {j : Input} {rest : List Input} (hp : s.pending = []) (hb : s.status.busy = false)
    (hh : s.held = none) (hin : s.inbox = j :: rest) : step s = perform j.act { s with inbox := rest } := by
  simp [step, hp, hb, hh, hin]

/-- Accepting a legal word that nothing interrupts runs its command. -/
theorem accept_of_uninterrupted {w : Word} {i : Instr} {s : State} (hd : decodeHost w = .ok i)
    (h : s.interruptAt = none) : accept w s = exec i s := by
  simp [accept, hd, h]

/-- Settles O11: the CMD write of an idle and of a busy block, the step that delivers a held word, and the read. -/
theorem cmdWriteDeliveredOrHeld : Obligations.CmdWriteDeliveredOrHeld := fun s w =>
  ⟨fun hb => perform_write_cmd_idle hb w, fun hb => perform_write_cmd_busy hb w,
    fun hp hh hb => step_of_held hp hb hh, perform_read s (off := 0) (by decide) rfl⟩

/-- Settles O8: the step takes the CMD write, the idle block delivers it, and its command runs as a whole. -/
theorem stepRunsHostWord : Obligations.StepRunsHostWord := by
  intro s a w i rest hp hb hh hin hd hint
  calc step s
      _ = perform (.access (.write s.par.base 32 w)) { s with inbox := rest } := step_of_input hp hb hh hin
      _ = accept w { s with inbox := rest } := perform_write_cmd_idle (s := { s with inbox := rest }) hb w
      _ = exec i { s with inbox := rest } := accept_of_uninterrupted hd hint

/-! ## STATUS as a word -/

/-- Settles O14: each field of the concatenation lies where R22 puts it. -/
theorem statusWordLayout : Obligations.StatusWordLayout := by
  intro st
  refine ⟨?_, ?_, ?_, ?_, ?_, ?_⟩
  · simp only [Status.word, BitVec.getLsbD_append]
    simp
  · simp only [Status.word, BitVec.getLsbD_append]
    simp
  · simp only [Status.word, BitVec.getLsbD_append]
    simp
  · simp only [Status.word, BitVec.getLsbD_append]
    simp
  · rw [Status.word, extract_high _ _ _ (by decide), extract_high _ _ _ (by decide), extract_high _ _ _ (by decide),
      extract_high _ _ _ (by decide), extract_low _ _ _ (by decide)]
    exact extract_whole st.cause
  · rw [Status.word, extract_high _ _ _ (by decide), extract_high _ _ _ (by decide), extract_high _ _ _ (by decide),
      extract_high _ _ _ (by decide), extract_high _ _ _ (by decide)]
    exact extract_whole 0#24

/-! ## The state after reset -/

/-- With nothing written, a framebuffer byte is the free value of its block reset (R29). -/
theorem State.fbRead_of_fb_nil {s : State} (h : s.fb = []) (i : Nat) : s.fbRead i = Config.fbInit s.draw i := by
  simp [State.fbRead, h, Memory.read]

/-- Settles O15: STATUS is all 0, the framebuffer is unwritten, and the other values are the record's own. -/
theorem resetValues : Obligations.ResetValues :=
  ⟨by decide, rfl, rfl, State.fbRead_of_fb_nil rfl, rfl, rfl, rfl, rfl, rfl, rfl⟩

end Sys2Proof.Machine
end

section
/-! PROOFS. The family 20_memory: the accesses outside the interface, the framebuffer's bits and pixels, and a command
that something from outside interrupts (R52, R60, R61, R249). -/

namespace Sys2Proof.Machine

/-! ## Accesses outside the interface -/

/-- A read outside the interface is refused by the name `windowOffset` gives it (R249). -/
theorem perform_read_refused {s : State} {addr bits : Nat} {r : Refusal}
    (h : windowOffset s.par.base addr bits = .error r) : perform (.access (.read addr bits)) s = .refused r := by
  simp [perform, h]

/-- A write outside the interface is refused by the name `windowOffset` gives it (R249). -/
theorem perform_write_refused {s : State} {addr bits : Nat} {r : Refusal} (v : Word)
    (h : windowOffset s.par.base addr bits = .error r) : perform (.access (.write addr bits v)) s = .refused r := by
  simp [perform, h]

theorem windowOffset_of_width (base addr : Nat) {bits : Nat} (h : bits ≠ 32) :
    windowOffset base addr bits = .error .accessWidth := by
  simp [windowOffset, h]

theorem windowOffset_of_outside {base addr : Nat} (h : addr < base ∨ base + 16 ≤ addr) :
    windowOffset base addr 32 = .error .outsideWindow := by
  simp [windowOffset, h]

theorem windowOffset_of_misaligned {base addr : Nat} (hlo : base ≤ addr) (hhi : addr < base + 16)
    (h : (addr - base) % 4 ≠ 0) : windowOffset base addr 32 = .error .misaligned := by
  have hinside : ¬ (addr < base ∨ base + 16 ≤ addr) := by omega
  simp [windowOffset, h, hinside]

/-- Settles O13: a read and a write are refused alike, by the first check of the window that fails. -/
theorem accessesOutsideInterfaceRefused : Obligations.AccessesOutsideInterfaceRefused := by
  intro s addr bits v
  refine ⟨fun h => ?_, fun h => ?_, fun hlo hhi h => ?_⟩
  · have hw := windowOffset_of_width s.par.base addr h
    exact ⟨perform_read_refused hw, perform_write_refused v hw⟩
  · have hw := windowOffset_of_outside h
    exact ⟨perform_read_refused hw, perform_write_refused v hw⟩
  · have hw := windowOffset_of_misaligned hlo hhi h
    exact ⟨perform_read_refused hw, perform_write_refused v hw⟩

/-! ## Bits and pixels -/

/-- From a bit to its pixel and back: lane `b` of byte `i` lies in byte `i` (R52). -/
theorem pixelIndex_of_bit (i : Nat) {b : Nat} (hb : b < 8) : pixelIndex (i % 84) (8 * (i / 84) + b) = i := by
  simp only [pixelIndex, fbIndex]
  omega

/-- From a bit to its pixel and back: the lane is the pixel's row in its bank (R52). -/
theorem lane_of_bit (i : Nat) {b : Nat} (hb : b < 8) : (8 * (i / 84) + b) % 8 = b := by
  rw [Nat.mul_add_mod, Nat.mod_eq_of_lt hb]

/-- From a pixel to its bit and back: the column (R50, R52). -/
theorem pixelIndex_mod {x : Nat} (hx : x < 84) (y : Nat) : pixelIndex x y % 84 = x := by
  rw [pixelIndex, fbIndex, Nat.mul_add_mod_self_right, Nat.mod_eq_of_lt hx]

/-- From a pixel to its bit and back: the bank (R50, R52). -/
theorem pixelIndex_div {x : Nat} (hx : x < 84) (y : Nat) : pixelIndex x y / 84 = y / 8 := by
  simp only [pixelIndex, fbIndex]
  omega

/-- A framebuffer bit is its pixel (R52). -/
theorem State.getLsbD_fbRead (s : State) (i : Nat) {b : Nat} (hb : b < 8) :
    (s.fbRead i).getLsbD b = s.pixel (i % 84) (8 * (i / 84) + b) := by
  rw [State.pixel, pixelIndex_of_bit i hb, lane_of_bit i hb]

/-- Settles O33: each map undoes the other, by division with remainder by 84 and by 8. -/
theorem pixelMapInverse : Obligations.PixelMapInverse := by
  refine fun s => ⟨fun i b hi hb => ?_, fun x y hx hy => ?_⟩
  · exact ⟨s.getLsbD_fbRead i hb, Nat.mod_lt i (by decide), by omega, pixelIndex_of_bit i hb, lane_of_bit i hb⟩
  · have hlt : pixelIndex x y < 504 := by
      simp only [pixelIndex, fbIndex]
      omega
    refine ⟨hlt, pixelIndex_mod hx y, ?_, rfl⟩
    rw [pixelIndex_div hx, Nat.div_add_mod]

/-! ## An interrupted command -/

/-- A legal word whose command something from outside falls inside is begun (R11, R61). -/
theorem accept_of_interrupted {w : Word} {i : Instr} {s : State} {k : Nat} (hd : decodeHost w = .ok i)
    (h : s.interruptAt = some k) : accept w s = .next (s.begin i) := by
  simp [accept, hd, h]

/-- Beginning a command the block does not accept is its fault, at once (R243). -/
theorem State.begin_of_not_accepts {i : Instr} {s : State} (h : accepts i s = false) :
    s.begin i = s.raiseFault .notInitialized :=
  if_neg (by simp [h])

/-- Micro-steps do not look at what is left of the command. -/
theorem runMicros_with_todo (ms : List Micro) (s : State) (td : List Micro) :
    runMicros ms { s with todo := td } = { runMicros ms s with todo := td } := by
  have h := runMicros_outside ms s td s.held s.inbox s.replies s.heard s.lcd
  simpa using h

/-- The begun command carried out to its end is the whole script but for the list of what is left (R11, R61). -/
theorem runMicros_todo_begin {i : Instr} {s : State} (h : accepts i s = true) :
    runMicros (s.begin i).todo (s.begin i) =
      { runActions (scriptOf i s) s with todo := (s.begin i).todo } := by
  have hbegin : s.begin i =
      { runMicros ((scriptMicros (scriptOf i s)).take 1) s with todo := (scriptMicros (scriptOf i s)).drop 1 } := if_pos h
  rw [hbegin, runMicros_with_todo, runMicros_drop, microsRefineTransactions]

/-- Settles O48: a cut does not change what the micro-steps come to, and together they are the command's script. -/
theorem interruptedCommandEndsAsWhole : Obligations.InterruptedCommandEndsAsWhole := by
  intro i s
  refine ⟨fun w k a rest hd hin ha => accept_of_interrupted hd (State.interruptAt_eq_some hin ha),
    State.begin_of_not_accepts, fun h => ?_⟩
  obtain ⟨ms, f, -, hbegin⟩ := State.begin_of_accepts h
  refine ⟨by rw [hbegin]; rfl, by rw [hbegin]; rfl, fun k => ?_⟩
  have hrun : exec i s = .next (runActions (scriptOf i s) s) := by
    rw [exec_host (isHost_of_accepts h), if_pos h]
  rw [hrun, runMicros_drop, runMicros_todo_begin h, ← runActions_todo (scriptOf i s) s]

end Sys2Proof.Machine
end

section
/-! PROOFS. The family 30_encoding, words and bytes as their fields: a vector put together from its fields, and the
masks and fixed bits that the rules draw them with (R70, R79, R82, R84). -/

namespace Sys2Proof.Machine

/-! ## A vector and its fields -/

/-- Two fields side by side are one field. -/
theorem extract_append_extract {n : Nat} (w : BitVec n) {lo k hi m : Nat} (h : hi = lo + k) :
    w.extractLsb' hi m ++ w.extractLsb' lo k = w.extractLsb' lo (m + k) :=
  BitVec.extractLsb'_append_extractLsb'_eq_extractLsb' h

/-- A field of a field. -/
theorem extract_extract {n : Nat} (w : BitVec n) {lo len lo' k : Nat} (h : lo' + k ≤ len) :
    (w.extractLsb' lo len).extractLsb' lo' k = w.extractLsb' (lo + lo') k := by
  apply BitVec.eq_of_getLsbD_eq
  intro i hi
  simp only [BitVec.getLsbD_extractLsb', hi, show lo' + i < len by omega, decide_true, Bool.true_and, Nat.add_assoc]

/-- A single bit is a field of width 1. -/
theorem ofBool_getLsbD {n : Nat} (w : BitVec n) (i : Nat) : BitVec.ofBool (w.getLsbD i) = w.extractLsb' i 1 := by
  apply BitVec.eq_of_getLsbD_eq
  intro j hj
  simp [show j = 0 by omega]

theorem getLsbD_zero_ofBool (b : Bool) : (BitVec.ofBool b).getLsbD 0 = b := by cases b <;> rfl

/-- Concatenations are equal part by part. -/
theorem append_eq_append_iff {n m : Nat} {a c : BitVec n} {b d : BitVec m} : a ++ b = c ++ d ↔ a = c ∧ b = d := by
  refine ⟨fun h => ⟨?_, ?_⟩, fun ⟨hac, hbd⟩ => by rw [hac, hbd]⟩
  · simpa only [BitVec.extractLsb'_append_eq_left] using congrArg (BitVec.extractLsb' m n) h
  · simpa only [BitVec.extractLsb'_append_eq_right] using congrArg (BitVec.extractLsb' 0 m) h

/-! ## Masks -/

/-- A mask of two parts tests the two parts. -/
theorem and_append_eq_append_iff {n m : Nat} (w : BitVec (n + m)) (p v : BitVec n) (q u : BitVec m) :
    w &&& (p ++ q) = v ++ u ↔ w.extractLsb' m n &&& p = v ∧ w.extractLsb' 0 m &&& q = u := by
  have hw : w = w.extractLsb' m n ++ w.extractLsb' 0 m := BitVec.extractLsb'_append_extractLsb'.symm
  conv_lhs => rw [hw, BitVec.and_append, append_eq_append_iff]

/-- The mask of a high field compares that field. -/
theorem and_highMask_eq_iff {n m : Nat} (w : BitVec (n + m)) (v : BitVec n) :
    w &&& (BitVec.allOnes n ++ 0#m) = v ++ 0#m ↔ w.extractLsb' m n = v := by
  rw [and_append_eq_append_iff, BitVec.and_allOnes, BitVec.and_zero, and_iff_left rfl]

/-! ## Fixed bits above a field -/

/-- A field set into a byte below a head is the concatenation: it cannot reach the head (R84). -/
theorem append_zero_or_setWidth {n m : Nat} (p : BitVec n) (c : BitVec m) :
    (p ++ 0#m) ||| c.setWidth (n + m) = p ++ c := by
  rw [BitVec.setWidth_eq_append (Nat.le_add_left m n)]
  apply BitVec.eq_of_getLsbD_eq
  intro i hi
  simp [BitVec.getLsbD_append]

theorem head_add_lt {n m : Nat} (p : BitVec n) {k : Nat} (hk : k < 2 ^ m) : p.toNat * 2 ^ m + k < 2 ^ (n + m) := by
  rw [pow_add]
  nlinarith [p.isLt]

/-- A head before a number that fits the rest is the sum. -/
theorem append_ofInt {n m : Nat} (p : BitVec n) {v : Int} (h0 : 0 ≤ v) (hv : v < 2 ^ m) :
    p ++ BitVec.ofInt m v = BitVec.ofInt (n + m) (p.toNat * 2 ^ m + v) := by
  lift v to Nat using h0
  have hk : v < 2 ^ m := by exact_mod_cast hv
  have hsum : (p.toNat : Int) * 2 ^ m + v = (p.toNat * 2 ^ m + v : Nat) := by push_cast; rfl
  apply BitVec.eq_of_toNat_eq
  rw [hsum, BitVec.toNat_append, BitVec.ofInt_natCast, BitVec.ofInt_natCast, BitVec.toNat_ofNat, BitVec.toNat_ofNat,
    Nat.mod_eq_of_lt hk, Nat.mod_eq_of_lt (head_add_lt p hk), ← Nat.shiftLeft_add_eq_or_of_lt hk, Nat.shiftLeft_eq]

end Sys2Proof.Machine
end

section
/-! PROOFS. The family 30_encoding, the round trip: what each format and each byte pattern decodes to, and which word or
frame what decodes was read from (R70 to R83). -/

namespace Sys2Proof.Machine

/-! ## The formats of the host words -/

theorem decodeHost_init (c : Byte) : decodeHost (0x1#4 ++ 0#20 ++ c) = .ok (.init c) := by
  simp (disch := decide) only [decodeHost, opField, decodeInit, extract_high, extract_low, extract_whole, Nat.reduceSub,
    BitVec.reduceToNat, ↓reduceIte]

theorem decodeHost_send (m : Bool) (v : Byte) :
    decodeHost (0x2#4 ++ 0#19 ++ BitVec.ofBool m ++ v) = .ok (.send (Mode.ofBit m) v) := by
  simp (disch := decide) only [decodeHost, opField, decodeSend, extract_high, extract_low, extract_whole, Nat.reduceSub,
    BitVec.reduceToNat, ↓reduceIte, BitVec.getLsbD_append, Nat.reduceLT, getLsbD_zero_ofBool]

theorem decodeHost_setaddr (col : BitVec 7) (bank : BitVec 3) :
    decodeHost (0x3#4 ++ 0#13 ++ col ++ 0#5 ++ bank) = .ok (.setaddr col bank) := by
  simp (disch := decide) only [decodeHost, opField, decodeSetaddr, extract_high, extract_low, extract_whole,
    Nat.reduceSub, BitVec.reduceToNat, ↓reduceIte, and_self]

theorem decodeHost_write (v : Byte) : decodeHost (0x4#4 ++ 0#20 ++ v) = .ok (.write v) := by
  simp (disch := decide) only [decodeHost, opField, decodeWrite, extract_high, extract_low, extract_whole,
    Nat.reduceSub, BitVec.reduceToNat, ↓reduceIte]

theorem decodeHost_flush : decodeHost (0x5#4 ++ 0#28) = .ok .flush := rfl

theorem decodeHost_clear : decodeHost (0x6#4 ++ 0#28) = .ok .clear := rfl

theorem decodeHost_setpx (c : Bool) (x y : BitVec 12) :
    decodeHost (0x7#4 ++ 0#3 ++ BitVec.ofBool c ++ x ++ y) = .ok (.setpx (Color.ofBit c) x.toInt y.toInt) := by
  simp (disch := decide) only [decodeHost, opField, decodeSetpx, extract_high, extract_low, extract_whole,
    Nat.reduceSub, BitVec.reduceToNat, ↓reduceIte, BitVec.getLsbD_append, Nat.reduceLT, getLsbD_zero_ofBool]

theorem decodeHost_getpx (x y : BitVec 12) :
    decodeHost (0x8#4 ++ 0#4 ++ x ++ y) = .ok (.getpx x.toInt y.toInt) := by
  simp (disch := decide) only [decodeHost, opField, decodeGetpx, extract_high, extract_low, extract_whole,
    Nat.reduceSub, BitVec.reduceToNat, ↓reduceIte]

/-! ## The byte patterns of the command frames -/

theorem getLsbD_seven_highBit (c : BitVec 7) : BitVec.getLsbD (w := 8) (1#1 ++ c) 7 = true := by
  simp only [BitVec.getLsbD_append, Nat.reduceLT, ↓reduceIte, Nat.reduceSub, BitVec.reduceGetLsb]

/-- A byte with bit 7 set is no function-set. -/
theorem extract_highBit_ne_fset (c : BitVec 7) : BitVec.extractLsb' (n := 8) 3 5 (1#1 ++ c) ≠ 0b00100#5 := by
  intro h
  have hbit : (BitVec.extractLsb' (n := 8) 3 5 (1#1 ++ c)).getLsbD 4 = true := by
    rw [BitVec.getLsbD_extractLsb']
    exact getLsbD_seven_highBit c
  rw [h] at hbit
  exact absurd hbit (by decide)

theorem decodeNormal_fset (pd v h : Bool) :
    decodeNormal (0b00100#5 ++ BitVec.ofBool pd ++ BitVec.ofBool v ++ BitVec.ofBool h) = .ok (.fset pd v h) := by
  simp (disch := decide) only [decodeNormal, extract_high, extract_whole, Nat.reduceSub, ↓reduceIte,
    BitVec.getLsbD_append, Nat.reduceLT, getLsbD_zero_ofBool]

theorem decodeExtended_fset (pd v h : Bool) :
    decodeExtended (0b00100#5 ++ BitVec.ofBool pd ++ BitVec.ofBool v ++ BitVec.ofBool h) = .ok (.fset pd v h) := by
  simp (disch := decide) only [decodeExtended, extract_high, extract_whole, Nat.reduceSub, ↓reduceIte,
    BitVec.getLsbD_append, Nat.reduceLT, getLsbD_zero_ofBool]

theorem decodeNormal_dctl (d e : Bool) :
    decodeNormal (0b00001#5 ++ BitVec.ofBool d ++ 0#1 ++ BitVec.ofBool e) = .ok (.dctl d e) := by
  cases d <;> cases e <;> rfl

theorem decodeNormal_yaddr (bank : BitVec 3) : decodeNormal (0b01000#5 ++ bank) = .ok (.yaddr bank) := by
  simp (disch := decide) only [decodeNormal, extract_high, extract_low, extract_whole, Nat.reduceSub, ↓reduceIte,
    BitVec.getLsbD_append, Nat.reduceLT, BitVec.reduceGetLsb, BitVec.reduceEq, Bool.false_eq_true]

theorem decodeNormal_xaddr (col : BitVec 7) : decodeNormal (1#1 ++ col) = .ok (.xaddr col) := by
  rw [decodeNormal, if_neg (extract_highBit_ne_fset col), if_pos (getLsbD_seven_highBit col),
    extract_low _ _ _ (by decide), extract_whole]

theorem decodeExtended_vop (v : BitVec 7) : decodeExtended (1#1 ++ v) = .ok (.vop v) := by
  rw [decodeExtended, if_neg (extract_highBit_ne_fset v), if_pos (getLsbD_seven_highBit v),
    extract_low _ _ _ (by decide), extract_whole]

theorem decodeExtended_bias (bs : BitVec 3) : decodeExtended (0b00010#5 ++ bs) = .ok (.bias bs) := by
  simp (disch := decide) only [decodeExtended, extract_high, extract_low, extract_whole, Nat.reduceSub, ↓reduceIte,
    BitVec.getLsbD_append, Nat.reduceLT, BitVec.reduceGetLsb, BitVec.reduceEq, Bool.false_eq_true]

theorem decodeExtended_tempco (tc : BitVec 2) : decodeExtended (0b000001#6 ++ tc) = .ok (.tempco tc) := by
  simp (disch := decide) only [decodeExtended, extract_high, extract_low, extract_whole, Nat.reduceSub, ↓reduceIte,
    BitVec.getLsbD_append, Nat.reduceLT, BitVec.reduceExtractLsb', BitVec.reduceGetLsb, BitVec.reduceEq,
    Bool.false_eq_true]

/-! ## A frame and its byte -/

theorem decodeFrame_data (h : Bool) (b : Byte) : decodeFrame h (frameBits .data b) = .ok (.data b) := by
  simp (disch := decide) only [decodeFrame, frameBits, extract_low, extract_whole, BitVec.getLsbD_append, Nat.reduceLT,
    ↓reduceIte, Nat.reduceSub, getLsbD_zero_ofBool, Mode.bit]

theorem decodeFrame_cmd (h : Bool) (b : Byte) :
    decodeFrame h (frameBits .cmd b) = if h then decodeExtended b else decodeNormal b := by
  simp (disch := decide) only [decodeFrame, frameBits, extract_low, extract_whole, BitVec.getLsbD_append, Nat.reduceLT,
    ↓reduceIte, Nat.reduceSub, getLsbD_zero_ofBool, Mode.bit, Bool.false_eq_true]

theorem frameBits_extract (f : FrameBits) : frameBits (Mode.ofBit (f.getLsbD 8)) (f.extractLsb' 0 8) = f := by
  rw [frameBits, Mode.bit_ofBit, ofBool_getLsbD, extract_append_extract f (by decide)]
  exact extract_whole f

/-- Every frame is a command frame or a data frame (R82). -/
theorem exists_frameBits (f : FrameBits) : ∃ m b, f = frameBits m b :=
  ⟨_, _, (frameBits_extract f).symm⟩

theorem encode_fset (pd v h : Bool) : encode (.fset pd v h) =
    .frame (frameBits .cmd (0b00100#5 ++ BitVec.ofBool pd ++ BitVec.ofBool v ++ BitVec.ofBool h)) := by
  cases pd <;> cases v <;> cases h <;> rfl

theorem encode_dctl (d e : Bool) : encode (.dctl d e) =
    .frame (frameBits .cmd (0b00001#5 ++ BitVec.ofBool d ++ 0#1 ++ BitVec.ofBool e)) := by
  cases d <;> cases e <;> rfl

theorem encode_yaddr (bank : BitVec 3) : encode (.yaddr bank) = .frame (frameBits .cmd (0b01000#5 ++ bank)) :=
  congrArg Code.frame BitVec.append_assoc

theorem encode_xaddr (col : BitVec 7) : encode (.xaddr col) = .frame (frameBits .cmd (1#1 ++ col)) :=
  congrArg Code.frame BitVec.append_assoc

theorem encode_tempco (tc : BitVec 2) : encode (.tempco tc) = .frame (frameBits .cmd (0b000001#6 ++ tc)) :=
  congrArg Code.frame BitVec.append_assoc

theorem encode_bias (bs : BitVec 3) : encode (.bias bs) = .frame (frameBits .cmd (0b00010#5 ++ bs)) :=
  congrArg Code.frame BitVec.append_assoc

theorem encode_vop (v : BitVec 7) : encode (.vop v) = .frame (frameBits .cmd (1#1 ++ v)) :=
  congrArg Code.frame BitVec.append_assoc

/-! ## Decoding an encoding -/

theorem decode_host (h : Bool) (w : Word) : decode h (.host w) = decodeHost w := rfl

theorem decode_normalSet {h : Bool} (hn : (!h) = true) (b : Byte) :
    decode h (.frame (frameBits .cmd b)) = decodeNormal b := by
  rw [decode, decodeFrame_cmd, if_neg (by simpa using hn)]

theorem decode_extendedSet {h : Bool} (he : h = true) (b : Byte) :
    decode h (.frame (frameBits .cmd b)) = decodeExtended b := by
  rw [decode, decodeFrame_cmd, if_pos he]

/-- Settles O2: each format and each byte pattern, put together from its fields, decodes to those fields. -/
theorem decodeOfEncode : Obligations.DecodeOfEncode := by
  intro h i hwf hset
  cases i with
  | init c => exact decodeHost_init c
  | send m v => rw [encode, decode_host, decodeHost_send, Mode.ofBit_bit]
  | setaddr col bank => exact decodeHost_setaddr col bank
  | write v => exact decodeHost_write v
  | flush => exact decodeHost_flush
  | clear => exact decodeHost_clear
  | setpx c x y =>
    obtain ⟨hx, hy⟩ := Bool.and_eq_true_iff.mp hwf
    rw [encode, decode_host, decodeHost_setpx, Color.ofBit_bit, coord_toInt_ofInt hx, coord_toInt_ofInt hy]
  | getpx x y =>
    obtain ⟨hx, hy⟩ := Bool.and_eq_true_iff.mp hwf
    rw [encode, decode_host, decodeHost_getpx, coord_toInt_ofInt hx, coord_toInt_ofInt hy]
  | fset pd v e => rw [encode_fset, decode, decodeFrame_cmd, decodeNormal_fset, decodeExtended_fset, ite_self]
  | dctl d e => rw [encode_dctl, decode_normalSet hset, decodeNormal_dctl]
  | yaddr bank => rw [encode_yaddr, decode_normalSet hset, decodeNormal_yaddr]
  | xaddr col => rw [encode_xaddr, decode_normalSet hset, decodeNormal_xaddr]
  | tempco tc => rw [encode_tempco, decode_extendedSet (h := h) hset, decodeExtended_tempco]
  | bias bs => rw [encode_bias, decode_extendedSet (h := h) hset, decodeExtended_bias]
  | vop v => rw [encode_vop, decode_extendedSet (h := h) hset, decodeExtended_vop]
  | data d => exact decodeFrame_data h d

/-! ## Encoding what was decoded -/

/-- A guarded decoder answers an instruction just where its guard holds. -/
theorem guard_eq_ok {p : Prop} [Decidable p] {i j : Instr} {r : Reject} :
    (if p then Except.ok j else Except.error r) = Except.ok i ↔ p ∧ j = i := by
  split <;> simp_all

/-- The operation code as a field of the word (R70). -/
theorem extract_of_opField {w : Word} {k : Nat} (h : opField w = k) : w.extractLsb' 28 4 = BitVec.ofNat 4 k := by
  rw [← h, opField, BitVec.ofNat_toNat, BitVec.setWidth_eq]

/-- The operation code and the must-be-zero bits below it are one field (R70, R79). -/
theorem extract_header {w : Word} {k lo m : Nat} (hop : opField w = k) (hz : w.extractLsb' lo m = 0#m)
    (hlo : 28 = lo + m) : w.extractLsb' lo (4 + m) = BitVec.ofNat 4 k ++ 0#m := by
  rw [← extract_of_opField hop, ← hz, extract_append_extract w hlo]

/-- A vector with a head is the head and the rest of it. -/
theorem append_extract_of_head {n m : Nat} {b : BitVec (n + m)} {p : BitVec n} (h : b.extractLsb' m n = p) :
    p ++ b.extractLsb' 0 m = b := by
  rw [← h]
  exact BitVec.extractLsb'_append_extractLsb'

/-- A word that decodes is the operation code, zeros and operands of its format, side by side (R70, R80). -/
theorem encode_of_decodeHost {w : Word} {i : Instr} (h : decodeHost w = .ok i) :
    encode i = .host w ∧ i.wellFormed = true := by
  have hcoords (x y : BitVec 12) : (coordFits x.toInt && coordFits y.toInt) = true := by
    rw [coordFits_toInt, coordFits_toInt, Bool.and_self]
  unfold decodeHost at h
  split at h
  next hop => -- INIT
    obtain ⟨hz, rfl⟩ := guard_eq_ok.mp h
    exact ⟨congrArg Code.host (append_extract_of_head (extract_header hop hz rfl)), rfl⟩
  next hop => -- SEND
    obtain ⟨hz, rfl⟩ := guard_eq_ok.mp h
    refine ⟨congrArg Code.host ?_, rfl⟩
    rw [Mode.bit_ofBit, ofBool_getLsbD, ← extract_header hop hz rfl]
    simp only [extract_append_extract]
    exact extract_whole w
  next hop => -- SETADDR
    obtain ⟨⟨hz, hz'⟩, rfl⟩ := guard_eq_ok.mp h
    refine ⟨congrArg Code.host ?_, rfl⟩
    rw [← extract_header hop hz rfl, ← hz']
    simp only [extract_append_extract]
    exact extract_whole w
  next hop => -- WRITE
    obtain ⟨hz, rfl⟩ := guard_eq_ok.mp h
    exact ⟨congrArg Code.host (append_extract_of_head (extract_header hop hz rfl)), rfl⟩
  next hop => -- FLUSH
    obtain ⟨hz, rfl⟩ := guard_eq_ok.mp h
    exact ⟨congrArg Code.host ((extract_header hop hz rfl).symm.trans (extract_whole w)), rfl⟩
  next hop => -- CLEAR
    obtain ⟨hz, rfl⟩ := guard_eq_ok.mp h
    exact ⟨congrArg Code.host ((extract_header hop hz rfl).symm.trans (extract_whole w)), rfl⟩
  next hop => -- SETPX
    obtain ⟨hz, rfl⟩ := guard_eq_ok.mp h
    refine ⟨congrArg Code.host ?_, hcoords _ _⟩
    rw [Color.bit_ofBit, ofBool_getLsbD, BitVec.ofInt_toInt, BitVec.ofInt_toInt, ← extract_header hop hz rfl]
    simp only [extract_append_extract]
    exact extract_whole w
  next hop => -- GETPX
    obtain ⟨hz, rfl⟩ := guard_eq_ok.mp h
    refine ⟨congrArg Code.host ?_, hcoords _ _⟩
    rw [BitVec.ofInt_toInt, BitVec.ofInt_toInt, ← extract_header hop hz rfl]
    simp only [extract_append_extract]
    exact extract_whole w
  next => cases h

/-- A byte as its head of five bits and its three low bits. -/
theorem extract_append_lowBits (b : Byte) :
    b.extractLsb' 3 5 ++ BitVec.ofBool (b.getLsbD 2) ++ BitVec.ofBool (b.getLsbD 1) ++ BitVec.ofBool (b.getLsbD 0) =
      b := by
  simp only [ofBool_getLsbD, extract_append_extract]
  exact extract_whole b

theorem extract_of_highBit {b : Byte} (h : b.getLsbD 7 = true) : b.extractLsb' 7 1 = 1#1 := by
  rw [← ofBool_getLsbD, h]
  rfl

theorem encode_of_decodeNormal {b : Byte} {i : Instr} (h : decodeNormal b = .ok i) :
    encode i = .frame (frameBits .cmd b) ∧ i.wellFormed = true ∧ i.definedIn false = true := by
  unfold decodeNormal at h
  split at h
  next hp =>
    cases h
    exact ⟨by rw [encode_fset, ← hp, extract_append_lowBits], rfl, rfl⟩
  next =>
    split at h
    next hp =>
      cases h
      exact ⟨by rw [encode_xaddr, append_extract_of_head (extract_of_highBit hp)], rfl, rfl⟩
    next =>
      split at h
      next hp =>
        cases h
        exact ⟨by rw [encode_yaddr, append_extract_of_head hp], rfl, rfl⟩
      next =>
        obtain ⟨⟨hp, h1⟩, rfl⟩ := guard_eq_ok.mp h
        have hzero : 0#1 = BitVec.ofBool (b.getLsbD 1) := by rw [h1]; rfl
        exact ⟨by rw [encode_dctl, ← hp, hzero, extract_append_lowBits], rfl, rfl⟩

theorem encode_of_decodeExtended {b : Byte} {i : Instr} (h : decodeExtended b = .ok i) :
    encode i = .frame (frameBits .cmd b) ∧ i.wellFormed = true ∧ i.definedIn true = true := by
  unfold decodeExtended at h
  split at h
  next hp =>
    cases h
    exact ⟨by rw [encode_fset, ← hp, extract_append_lowBits], rfl, rfl⟩
  next =>
    split at h
    next hp =>
      cases h
      exact ⟨by rw [encode_vop, append_extract_of_head (extract_of_highBit hp)], rfl, rfl⟩
    next =>
      split at h
      next hp =>
        cases h
        exact ⟨by rw [encode_bias, append_extract_of_head hp], rfl, rfl⟩
      next =>
        obtain ⟨hp, rfl⟩ := guard_eq_ok.mp h
        exact ⟨by rw [encode_tempco, append_extract_of_head hp], rfl, rfl⟩

theorem definedIn_of_isHost {i : Instr} (hi : i.isHost = true) (h : Bool) : i.definedIn h = true := by
  cases i with
  | init | send | setaddr | write | flush | clear | setpx | getpx => rfl
  | fset | dctl | yaddr | xaddr | tempco | bias | vop | data => cases hi

/-- Settles O3: what the decoder answers is put together from the fields of the very word or frame. -/
theorem encodeOfDecode : Obligations.EncodeOfDecode := by
  intro h c i hd
  cases c with
  | host w =>
    obtain ⟨henc, hwf⟩ := encode_of_decodeHost hd
    exact ⟨henc, hwf, definedIn_of_isHost (decodeHost_isHost hd) h⟩
  | frame f =>
    obtain ⟨m, b, rfl⟩ := exists_frameBits f
    cases m with
    | data =>
      cases (decodeFrame_data h b).symm.trans hd
      exact ⟨rfl, rfl, rfl⟩
    | cmd =>
      cases h with
      | false => exact encode_of_decodeNormal ((decode_normalSet rfl b).symm.trans hd)
      | true => exact encode_of_decodeExtended ((decode_extendedSet rfl b).symm.trans hd)

end Sys2Proof.Machine
end

section
/-! PROOFS. The family 30_encoding, legality, wire frames outside their set, the bytes the block builds, and the
assembler (R79, R83 to R88, R213). -/

namespace Sys2Proof.Machine

/-! ## Illegal words -/

/-- The words the decoder accepts, by operation code and must-be-zero bits (R71 to R77). -/
def InFormat (w : Word) : Prop :=
  (opField w = 1 ∧ w.extractLsb' 8 20 = 0#20) ∨ (opField w = 2 ∧ w.extractLsb' 9 19 = 0#19) ∨
  (opField w = 3 ∧ w.extractLsb' 15 13 = 0#13 ∧ w.extractLsb' 3 5 = 0#5) ∨
  (opField w = 4 ∧ w.extractLsb' 8 20 = 0#20) ∨ (opField w = 5 ∧ w.extractLsb' 0 28 = 0#28) ∨
  (opField w = 6 ∧ w.extractLsb' 0 28 = 0#28) ∨ (opField w = 7 ∧ w.extractLsb' 25 3 = 0#3) ∨
  (opField w = 8 ∧ w.extractLsb' 24 4 = 0#4)

theorem exists_guard_eq_ok {p : Prop} [Decidable p] {j : Instr} {r : Reject} :
    (∃ i, (if p then Except.ok j else Except.error r) = Except.ok i) ↔ p := by
  simp only [guard_eq_ok, exists_and_left, exists_eq', and_true]

/-- The decoder answers a command on the words of the eight formats and on no other (R79, R80). -/
theorem exists_decodeHost_iff (w : Word) : (∃ i, decodeHost w = .ok i) ↔ InFormat w := by
  unfold decodeHost InFormat
  split
  next hop => simp [decodeInit, exists_guard_eq_ok, hop]
  next hop => simp [decodeSend, exists_guard_eq_ok, hop]
  next hop => simp [decodeSetaddr, exists_guard_eq_ok, hop]
  next hop => simp [decodeWrite, exists_guard_eq_ok, hop]
  next hop => simp [decodeFlush, exists_guard_eq_ok, hop]
  next hop => simp [decodeClear, exists_guard_eq_ok, hop]
  next hop => simp [decodeSetpx, exists_guard_eq_ok, hop]
  next hop => simp [decodeGetpx, exists_guard_eq_ok, hop]
  next => exact iff_of_false (by simp) (by tauto)

/-- A header field has the operation code and the zeros just when its two parts do (R70, R79). -/
theorem extract_header_iff (w : Word) (k lo m : Nat) (hk : k < 16) (hlo : 28 = lo + m) :
    w.extractLsb' lo (4 + m) = BitVec.ofNat 4 k ++ 0#m ↔ opField w = k ∧ w.extractLsb' lo m = 0#m := by
  refine ⟨fun h => ?_, fun ⟨hop, hz⟩ => extract_header hop hz hlo⟩
  rw [← extract_append_extract w hlo, append_eq_append_iff] at h
  obtain ⟨hop, hz⟩ := h
  rw [opField, hop, BitVec.toNat_ofNat]
  exact ⟨Nat.mod_eq_of_lt hk, hz⟩

theorem extract_whole_eq_iff (w v : Word) : w = v ↔ w.extractLsb' 0 32 = v := by rw [extract_whole]

/-- The words of the eight formats as masks and values. -/
theorem inFormat_iff_masks (w : Word) : InFormat w ↔
    w &&& 0xFFFFFF00#32 = 0x10000000#32 ∨ w &&& 0xFFFFFE00#32 = 0x20000000#32 ∨
    w &&& 0xFFFF80F8#32 = 0x30000000#32 ∨ w &&& 0xFFFFFF00#32 = 0x40000000#32 ∨
    w = 0x50000000#32 ∨ w = 0x60000000#32 ∨
    w &&& 0xFE000000#32 = 0x70000000#32 ∨ w &&& 0xFF000000#32 = 0x80000000#32 := by
  have hinit : w &&& 0xFFFFFF00#32 = 0x10000000#32 ↔ opField w = 1 ∧ w.extractLsb' 8 20 = 0#20 :=
    (and_highMask_eq_iff (n := 24) (m := 8) w (0x1#4 ++ 0#20)).trans (extract_header_iff w 1 8 20 (by decide) rfl)
  have hsend : w &&& 0xFFFFFE00#32 = 0x20000000#32 ↔ opField w = 2 ∧ w.extractLsb' 9 19 = 0#19 :=
    (and_highMask_eq_iff (n := 23) (m := 9) w (0x2#4 ++ 0#19)).trans (extract_header_iff w 2 9 19 (by decide) rfl)
  have hwrite : w &&& 0xFFFFFF00#32 = 0x40000000#32 ↔ opField w = 4 ∧ w.extractLsb' 8 20 = 0#20 :=
    (and_highMask_eq_iff (n := 24) (m := 8) w (0x4#4 ++ 0#20)).trans (extract_header_iff w 4 8 20 (by decide) rfl)
  have hflush : w = 0x50000000#32 ↔ opField w = 5 ∧ w.extractLsb' 0 28 = 0#28 :=
    (extract_whole_eq_iff w (0x5#4 ++ 0#28)).trans (extract_header_iff w 5 0 28 (by decide) rfl)
  have hclear : w = 0x60000000#32 ↔ opField w = 6 ∧ w.extractLsb' 0 28 = 0#28 :=
    (extract_whole_eq_iff w (0x6#4 ++ 0#28)).trans (extract_header_iff w 6 0 28 (by decide) rfl)
  have hsetpx : w &&& 0xFE000000#32 = 0x70000000#32 ↔ opField w = 7 ∧ w.extractLsb' 25 3 = 0#3 :=
    (and_highMask_eq_iff (n := 7) (m := 25) w (0x7#4 ++ 0#3)).trans (extract_header_iff w 7 25 3 (by decide) rfl)
  have hgetpx : w &&& 0xFF000000#32 = 0x80000000#32 ↔ opField w = 8 ∧ w.extractLsb' 24 4 = 0#4 :=
    (and_highMask_eq_iff (n := 8) (m := 24) w (0x8#4 ++ 0#4)).trans (extract_header_iff w 8 24 4 (by decide) rfl)
  have hsetaddr : w &&& 0xFFFF80F8#32 = 0x30000000#32 ↔
      opField w = 3 ∧ w.extractLsb' 15 13 = 0#13 ∧ w.extractLsb' 3 5 = 0#5 := by
    have hhead : w.extractLsb' 8 24 &&& (BitVec.allOnes 17 ++ 0#7) = 0x3#4 ++ 0#13 ++ 0#7 ↔
        opField w = 3 ∧ w.extractLsb' 15 13 = 0#13 := by
      rw [and_highMask_eq_iff (n := 17) (m := 7) (w.extractLsb' 8 24) (0x3#4 ++ 0#13), extract_extract w (by decide)]
      exact extract_header_iff w 3 15 13 (by decide) rfl
    have hlow : w.extractLsb' 0 8 &&& (BitVec.allOnes 5 ++ 0#3) = 0#5 ++ 0#3 ↔ w.extractLsb' 3 5 = 0#5 := by
      rw [and_highMask_eq_iff (n := 5) (m := 3) (w.extractLsb' 0 8) 0#5, extract_extract w (by decide)]
    refine (and_append_eq_append_iff (n := 24) (m := 8) w (BitVec.allOnes 17 ++ 0#7) (0x3#4 ++ 0#13 ++ 0#7)
      (BitVec.allOnes 5 ++ 0#3) (0#5 ++ 0#3)).trans ?_
    rw [hhead, hlow, and_assoc]
  rw [hinit, hsend, hsetaddr, hwrite, hflush, hclear, hsetpx, hgetpx, InFormat]

theorem accept_of_illegal {w : Word} (h : ¬ ∃ i, decodeHost w = .ok i) (s : State) :
    accept w s = .next (s.raiseFault .illegalCmd) := by
  cases hd : decodeHost w with
  | ok i => exact absurd ⟨i, hd⟩ h
  | error r => simp only [accept, hd]

/-- Settles O4: the masks draw the words the decoder accepts, and on every other word the block records the fault. -/
theorem illegalWordRecordsFaultOnly : Obligations.IllegalWordRecordsFaultOnly := by
  intro w s
  have hlegal := (exists_decodeHost_iff w).trans (inFormat_iff_masks w)
  exact ⟨fun h => accept_of_illegal (fun hd => h (hlegal.mp hd)) s, hlegal.mpr⟩

/-! ## Wire frames outside their set -/

theorem Lcd.apply_undef (i : Instr) : Lcd.apply i .undef = .undef := by cases i <;> rfl

/-- A frame without a meaning at this record leaves UNDEF, whatever the addressing (R213). -/
theorem Lcd.take_of_meaningless {f : LcdRegs → Lcd} {r : LcdRegs} (h : f r = .undef) :
    (Lcd.known r).take f = .undef := by
  rw [Lcd.take, h, ite_self]

theorem Lcd.apply_of_vertical {i : Instr} {r : LcdRegs} (hi : i.isHost = false) (hv : r.v = true) :
    Lcd.apply i (.known r) = .undef := by
  cases i with
  | init | send | setaddr | write | flush | clear | setpx | getpx => cases hi
  | fset | dctl | yaddr | xaddr | tempco | bias | vop | data => exact if_pos hv

theorem Lcd.apply_of_outsideSet {i : Instr} {r : LcdRegs} (hx : ∀ c, i ≠ .xaddr c) (hv : ∀ c, i ≠ .vop c)
    (hset : i.definedIn r.h = false) : Lcd.apply i (.known r) = .undef := by
  cases i with
  | init | send | setaddr | write | flush | clear | setpx | getpx | fset | data => cases hset
  | dctl d e => rw [Lcd.apply, Lcd.dctl, Lcd.take_of_meaningless (if_pos (Bool.not_eq_eq_eq_not.mp hset))]
  | yaddr bank => rw [Lcd.apply, Lcd.yaddr, Lcd.take_of_meaningless (if_pos (Bool.not_eq_eq_eq_not.mp hset))]
  | tempco tc => rw [Lcd.apply, Lcd.tempco, Lcd.take_of_meaningless (if_neg (ne_true_of_eq_false hset))]
  | bias bs => rw [Lcd.apply, Lcd.bias, Lcd.take_of_meaningless (if_neg (ne_true_of_eq_false hset))]
  | xaddr c => exact absurd rfl (hx c)
  | vop c => exact absurd rfl (hv c)

/-- Settles O36: a frame acts on the controller alone, and each of the three cases fixes what becomes of that. -/
theorem framesOutsideTheirSet : Obligations.FramesOutsideTheirSet := by
  intro s i hi
  refine ⟨fun hl => ?_, fun r hl => ⟨fun hv => ?_, fun hx hv hset => ?_, fun c => rfl⟩⟩
  · rw [exec_wire_eq hi, hl, Lcd.apply_undef, ← hl]
  · rw [exec_wire_eq hi, hl, Lcd.apply_of_vertical hi hv]
  · rw [exec_wire_eq hi, hl, Lcd.apply_of_outsideSet hx hv hset]

/-! ## The bytes the block builds -/

theorem xAddrByte_eq_append (col : BitVec 7) : xAddrByte col = 1#1 ++ col := append_zero_or_setWidth 1#1 col

theorem yAddrByte_eq_append (bank : BitVec 3) : yAddrByte bank = 0b01000#5 ++ bank :=
  append_zero_or_setWidth 0b01000#5 bank

theorem vopByte_eq_append (c : BitVec 7) : vopByte c = 1#1 ++ c := append_zero_or_setWidth 1#1 c

theorem biasByte_eq_append (bs : BitVec 3) : biasByte bs = 0b00010#5 ++ bs := append_zero_or_setWidth 0b00010#5 bs

theorem fsetByte_eq_append (pd v h : Bool) :
    fsetByte pd v h = 0b00100#5 ++ BitVec.ofBool pd ++ BitVec.ofBool v ++ BitVec.ofBool h := by
  cases pd <;> cases v <;> cases h <;> rfl

theorem dctlByte_eq_append (d e : Bool) :
    dctlByte d e = 0b00001#5 ++ BitVec.ofBool d ++ 0#1 ++ BitVec.ofBool e := by
  cases d <;> cases e <;> rfl

/-- Settles O5: each byte is its pattern's head and fields, which decode to the frame it is meant to be. -/
theorem builtBytesAreTheirCommands : Obligations.BuiltBytesAreTheirCommands := by
  refine ⟨fun col => ?_, fun bank => ?_, fun c => ?_, fun b => ?_, fun pd v h => ?_, fun d e => ?_⟩
  · rw [xAddrByte_eq_append, decodeNormal_xaddr]
  · rw [yAddrByte_eq_append, decodeNormal_yaddr]
  · rw [vopByte_eq_append, decodeExtended_vop]
  · rw [biasByte_eq_append, decodeExtended_bias]
  · rw [fsetByte_eq_append]
    exact ⟨decodeNormal_fset pd v h, decodeExtended_fset pd v h⟩
  · rw [dctlByte_eq_append, decodeNormal_dctl]

/-! ## The assembler -/

/-- Settles O1: the eleven lines, assembled and decoded. -/
theorem exampleWordsDecode : Obligations.ExampleWordsDecode := by
  unfold Obligations.ExampleWordsDecode
  decide

/-- An operand fills its field in the field's range and is rejected outside it (R86). -/
theorem fieldOf_eq {n : Nat} {top : Int} (htop : top + 1 = 2 ^ n) (v : Int) :
    fieldOf n v = if 0 ≤ v ∧ v ≤ top then some (BitVec.ofInt n v) else none := by
  simp only [fieldOf, ← htop, Int.lt_add_one_iff]

theorem fieldOf_of_lt {n : Nat} {v : Int} (h0 : 0 ≤ v) (hv : v < 2 ^ n) : fieldOf n v = some (BitVec.ofInt n v) :=
  if_pos ⟨h0, hv⟩

theorem map_fieldOf {n : Nat} {top : Int} (htop : top + 1 = 2 ^ n) (v : Int) (f : BitVec n → Instr) :
    (fieldOf n v).map f = if 0 ≤ v ∧ v ≤ top then some (f (BitVec.ofInt n v)) else none := by
  rw [fieldOf_eq htop, apply_ite (Option.map f)]
  rfl

/-- Two coordinates are accepted when both are in range and rejected otherwise (R86). -/
theorem bind_coordOf (x y : Int) (f : Int → Int → Instr) :
    ((coordOf x).bind fun x' => (coordOf y).map fun y' => f x' y') =
      if -2048 ≤ x ∧ x ≤ 2047 ∧ -2048 ≤ y ∧ y ≤ 2047 then some (f x y) else none := by
  by_cases hx : -2048 ≤ x ∧ x ≤ 2047 <;> by_cases hy : -2048 ≤ y ∧ y ≤ 2047 <;>
    simp [coordOf, coordFits, hx, hy]

/-- Settles O6: each operand's field is filled just in its range. -/
theorem assemblerRejectsOutOfRange : Obligations.AssemblerRejectsOutOfRange := by
  refine ⟨fun c => map_fieldOf rfl c _, fun m b => map_fieldOf rfl b _, fun c b => ?_, fun b => map_fieldOf rfl b _,
    fun x y c => bind_coordOf x y _, fun x y => bind_coordOf x y _⟩
  rw [AsmLine.instr, fieldOf_eq (n := 7) (top := 127) rfl c, fieldOf_eq (n := 3) (top := 7) rfl b]
  by_cases hc : 0 ≤ c ∧ c ≤ 127 <;> by_cases hb : 0 ≤ b ∧ b ≤ 7 <;> simp [hc, hb]

/-- A field set into a byte below a head is the byte of the sum, which SEND's field holds (R86, R87). -/
theorem map_fieldOf_or_head {n m : Nat} (p : BitVec n) (f : BitVec (n + m) → Instr) {v : Int} (h0 : 0 ≤ v)
    (hv : v < 2 ^ m) : (fieldOf m v).map (fun c => f ((p ++ 0#m) ||| c.setWidth (n + m))) =
      (fieldOf (n + m) (p.toNat * 2 ^ m + v)).map f := by
  have hsum : (p.toNat : Int) * 2 ^ m + v < 2 ^ (n + m) := by
    lift v to Nat using h0
    exact_mod_cast head_add_lt p (by exact_mod_cast hv)
  rw [fieldOf_of_lt h0 hv, fieldOf_of_lt (by positivity) hsum, Option.map_some, Option.map_some,
    append_zero_or_setWidth, append_ofInt p h0 hv]

/-- Settles O7: a pseudo-instruction is its expansion as written, or a head and a field that make the sum. -/
theorem pseudoInstructionExpansions : Obligations.PseudoInstructionExpansions := by
  refine ⟨fun b => rfl, fun b => rfl, rfl, rfl, rfl, rfl, rfl, rfl, rfl, fun t h0 ht => ?_, fun b h0 hb => ?_,
    fun v h0 hv => ?_, fun x y => rfl⟩
  · exact map_fieldOf_or_head (m := 2) 0b000001#6 (.send .cmd) h0 (Int.lt_add_one_iff.mpr ht)
  · exact map_fieldOf_or_head (m := 3) 0b00010#5 (.send .cmd) h0 (Int.lt_add_one_iff.mpr hb)
  · exact map_fieldOf_or_head (m := 7) 1#1 (.send .cmd) h0 (Int.lt_add_one_iff.mpr hv)

end Sys2Proof.Machine
end

section
/-! PROOFS. The family 40_bus_transport: what a receiver rebuilds from a byte's samples, what it reads from the pins of
a frame and of a whole command, and SEND (R101, R102, R104, R105, R290). -/

namespace Sys2Proof.Machine

/-! ## The samples of a byte -/

/-- A receiver shifts each sample in from the right (R102). -/
theorem byteOfSamples_append_singleton (bits : List Bool) (v : Bool) :
    byteOfSamples (bits ++ [v]) = (byteOfSamples bits <<< 1) ||| (BitVec.ofBool v).setWidth 8 := by
  rw [byteOfSamples, List.foldl_append]
  rfl

/-- The last sample is bit 0, the one before it bit 1, and so on; what was shifted in before the last eight is gone. -/
theorem getLsbD_byteOfSamples (bits : List Bool) {i : Nat} (hi : i < 8) :
    (byteOfSamples bits).getLsbD i = bits.reverse.getD i false := by
  induction bits using List.reverseRecOn generalizing i with
  | nil => simp [byteOfSamples]
  | append_singleton bits v ih =>
    rw [byteOfSamples_append_singleton, List.reverse_append, List.reverse_singleton, List.singleton_append]
    cases i with
    | zero => simp
    | succ i =>
      rw [List.getD_cons_succ, ← ih (Nat.lt_of_succ_lt hi), BitVec.getLsbD_or, BitVec.getLsbD_shiftLeft]
      simp [hi, -BitVec.getLsbD_eq_getElem]

theorem length_bitsMsbFirst (b : Byte) : (bitsMsbFirst b).length = 8 := rfl

/-- A byte's bits are sent most significant first (R102). -/
theorem reverse_bitsMsbFirst (b : Byte) : (bitsMsbFirst b).reverse = (List.range 8).map b.getLsbD := rfl

theorem byteOfSamples_bitsMsbFirst (b : Byte) : byteOfSamples (bitsMsbFirst b) = b := by
  apply BitVec.eq_of_getLsbD_eq
  intro i hi
  rw [getLsbD_byteOfSamples _ hi, reverse_bitsMsbFirst]
  simp [hi]

/-- Settles O43: each bit of the rebuilt byte is the sample that was sent for it. -/
theorem samplesRebuildByte : Obligations.SamplesRebuildByte := fun b => ⟨rfl, byteOfSamples_bitsMsbFirst b⟩

/-! ## Traces in parts -/

theorem pinTrace_append (as bs : List Micro) : pinTrace (as ++ bs) = pinTrace as ++ pinTrace bs :=
  List.filterMap_append

theorem Receiver.read_append (r : Receiver) (as bs : List PinEvent) : r.read (as ++ bs) = (r.read as).read bs :=
  List.foldl_append

theorem Receiver.read_pinTrace_nil (r : Receiver) : r.read (pinTrace []) = r := rfl

/-- A receiver sees of a micro-step its pin event, if it is one (R105). -/
theorem Receiver.read_pinTrace_cons (r : Receiver) (m : Micro) (ms : List Micro) :
    r.read (pinTrace (m :: ms)) = (m.pinEvent.elim r r.see).read (pinTrace ms) := by
  cases h : m.pinEvent <;> simp [pinTrace, h, Receiver.read]

theorem busTime_append (d : Duration → Nat) (as bs : List PinEvent) :
    busTime d (as ++ bs) = busTime d as + busTime d bs := by
  simp [busTime]

theorem scriptFrames_cons (a : Action) (as : List Action) :
    scriptFrames (a :: as) = scriptFrames [a] ++ scriptFrames as :=
  List.filterMap_append (l := [a])

theorem framesOf_append (es fs : List WireEvent) : framesOf (es ++ fs) = framesOf es ++ framesOf fs :=
  List.filterMap_append

/-! ## A frame at the receiver -/

/-- The receiver after `bits`, the last of them `v`, have gone out inside an SCE_N-low interval (R101, R102). -/
def Receiver.bitsSeen (r : Receiver) (bits : List Bool) (v : Bool) : Receiver :=
  { r with
    pins := { r.pins with sdin := v, sclk := false }
    samples := r.samples ++ bits
    edges := r.edges + bits.length }

/-- The rising edge of a bit samples it (R101, R102). -/
theorem Receiver.read_bitMicros {r : Receiver} (hsceN : r.pins.sceN = false) (hsclk : r.pins.sclk = false) (v : Bool) :
    r.read (pinTrace (bitMicros v)) = r.bitsSeen [v] v := by
  simp [bitMicros, Receiver.read_pinTrace_cons, Receiver.read_pinTrace_nil, Micro.pinEvent, Receiver.see, Pins.set,
    Receiver.bitsSeen, hsceN, hsclk]

/-- Inside an SCE_N-low interval a receiver samples the bits in the order they are sent (R102). -/
theorem Receiver.read_bits {r : Receiver} (hsceN : r.pins.sceN = false) (hsclk : r.pins.sclk = false) (bits : List Bool)
    (v : Bool) : r.read (pinTrace ((bits ++ [v]).flatMap bitMicros)) = r.bitsSeen (bits ++ [v]) v := by
  induction bits generalizing r with
  | nil => exact Receiver.read_bitMicros hsceN hsclk v
  | cons b bits ih =>
    rw [List.cons_append, List.flatMap_cons, pinTrace_append, Receiver.read_append, Receiver.read_bitMicros hsceN hsclk]
    refine (ih (r := r.bitsSeen [b] b) hsceN rfl).trans ?_
    simp [Receiver.bitsSeen, Nat.add_comm, Nat.add_left_comm]

/-- The receiver once it has read all that a script puts on the pins, the pins being left as `p`. -/
def Receiver.afterScript (r : Receiver) (as : List Action) (p : Pins) : Receiver :=
  { pins := p
    samples := []
    frames := r.frames ++ scriptFrames as
    edges := r.edges + 8 * (scriptFrames as).length
    pulses := r.pulses + as.count .resetPulse }

/-- A script with neither frame nor reset pulse gives a receiver nothing to read. -/
theorem Receiver.afterScript_of_quiet {r : Receiver} {as : List Action} (hframes : scriptFrames as = [])
    (hpulses : as.count .resetPulse = 0) (hsamples : r.samples = []) : r.afterScript as r.pins = r := by
  rw [Receiver.afterScript, hframes, hpulses, List.append_nil, ← hsamples]
  rfl

/-- The last bit of a frame is bit 0 (R102). -/
theorem bitsMsbFirst_eq_append (b : Byte) : bitsMsbFirst b = (bitsMsbFirst b).dropLast ++ [b.getLsbD 0] := rfl

/-- A receiver at the start of an SCE_N-low interval, `dc` being the level of DC (R101). -/
def Receiver.opened (r : Receiver) (dc : Bool) : Receiver :=
  { r with pins := { r.pins with dc := dc, sceN := false }, samples := [] }

/-- The pins of a frame: one SCE_N-low interval of eight samples, which is the frame (R101, R102, R105). -/
theorem Receiver.read_emitMicros {r : Receiver} (hsclk : r.pins.sclk = false) (m : Mode) (b : Byte) :
    r.read (pinTrace (emitMicros m b)) =
      r.afterScript [.emit m b] { r.pins with sclk := false, sdin := b.getLsbD 0, dc := m.bit, sceN := true } := by
  have hopen : r.read (pinTrace [.pin .dc m.bit, .pin .sceN false, .wait .setup, .load b]) = r.opened m.bit := by
    simp [Receiver.read_pinTrace_cons, Receiver.read_pinTrace_nil, Micro.pinEvent, Receiver.see, Pins.set,
      Receiver.opened]
  have hsamples : (r.opened m.bit).read (pinTrace ((bitsMsbFirst b).flatMap bitMicros)) =
      (r.opened m.bit).bitsSeen (bitsMsbFirst b) (b.getLsbD 0) := by
    rw [bitsMsbFirst_eq_append b]
    exact Receiver.read_bits (r := r.opened m.bit) rfl hsclk _ _
  have hmode : modeOfDc m.bit = m := by cases m <;> rfl
  rw [emitMicros, pinTrace_append, pinTrace_append, Receiver.read_append, Receiver.read_append, hopen, hsamples]
  simp [Receiver.read_pinTrace_cons, Receiver.read_pinTrace_nil, Micro.pinEvent, Receiver.see, Pins.set,
    Receiver.bitsSeen, Receiver.opened, Receiver.afterScript, scriptFrames, hmode, length_bitsMsbFirst,
    byteOfSamples_bitsMsbFirst]

/-- The waits of the bits of a frame (R101, R290). -/
theorem busTime_bits (d : Duration → Nat) (bits : List Bool) :
    busTime d (pinTrace (bits.flatMap bitMicros)) = bits.length * (d .sclkLow + d .sclkHigh) := by
  induction bits with
  | nil => exact (Nat.zero_mul _).symm
  | cons b bits ih =>
    have hbit : busTime d (pinTrace (bitMicros b)) = d .sclkLow + d .sclkHigh := by
      simp [busTime, pinTrace, List.filterMap_cons, bitMicros, Micro.pinEvent]
    rw [List.flatMap_cons, pinTrace_append, busTime_append, hbit, ih, List.length_cons, Nat.succ_mul, Nat.add_comm]

/-- The waits of a frame add up to its least duration (R290). -/
theorem busTime_emitMicros (d : Duration → Nat) (m : Mode) (b : Byte) :
    busTime d (pinTrace (emitMicros m b)) = frameTime d := by
  rw [emitMicros, pinTrace_append, pinTrace_append, busTime_append, busTime_append, busTime_bits,
    length_bitsMsbFirst, frameTime]
  simp [busTime, pinTrace, List.filterMap_cons, Micro.pinEvent, ← Nat.add_assoc]

/-- Settles O44: a receiver that has seen nothing, after the one frame. -/
theorem framePinsReadBack : Obligations.FramePinsReadBack := by
  intro m b p d _ hsclk
  exact ⟨Receiver.read_emitMicros (r := Receiver.start p) hsclk m b, busTime_emitMicros d m b⟩

/-! ## A command at the receiver -/

/-- The pins of one action of a command's body (R101, R121). -/
theorem Receiver.read_action {stores : Bool} {a : Action} (ha : a.inBody stores = true) {r : Receiver} {s : State}
    (hpins : r.pins = s.pins) (hidle : s.pins.idle) (hsamples : r.samples = []) :
    r.read (pinTrace a.micros) = r.afterScript [a] (a.run s).pins := by
  obtain ⟨-, hsclk, -⟩ := hidle
  cases a with
  | op m =>
    have hquiet : r = r.afterScript [.op m] s.pins := by
      rw [← hpins, Receiver.afterScript_of_quiet rfl rfl hsamples]
    cases m
    case seqAt | store => exact hquiet
    all_goals cases ha
  | emit m b =>
    rw [← hpins] at hsclk
    rw [Action.micros, Receiver.read_emitMicros hsclk, hpins]
    rfl
  | resetPulse =>
    simp [Action.micros, pulseMicros, Receiver.read_pinTrace_cons, Receiver.read_pinTrace_nil, Micro.pinEvent,
      Receiver.see, Pins.set, Receiver.afterScript, scriptFrames, Action.run, hpins, hsamples]

/-- The pins of a command's body: its frames, eight edges each, and its reset pulses; the receiver sees the pins as the
body leaves them (R105). -/
theorem Receiver.read_body {stores : Bool} {as : List Action} (has : ∀ a ∈ as, a.inBody stores = true) {r : Receiver}
    {s : State} (hpins : r.pins = s.pins) (hidle : s.pins.idle) (hsamples : r.samples = []) :
    r.read (pinTrace (scriptMicros as)) = r.afterScript as (runActions as s).pins := by
  induction as generalizing r s with
  | nil =>
    rw [runActions_nil, ← hpins, Receiver.afterScript_of_quiet rfl rfl hsamples]
    rfl
  | cons a as ih =>
    have ha := has a List.mem_cons_self
    rw [scriptMicros_cons, pinTrace_append, Receiver.read_append, Receiver.read_action ha hpins hidle hsamples,
      ih (fun a' h' => has a' (List.mem_cons_of_mem a h')) rfl (Action.run_idlePins ha hidle) rfl, runActions_cons]
    simp only [Receiver.afterScript, scriptFrames_cons a as, List.append_assoc, List.length_append, Nat.mul_add,
      Nat.add_assoc, ← List.count_append, List.singleton_append]

/-- An action of a command's body puts its frame, if it is one, on the wire. -/
theorem Action.framesOf_run_trace {stores : Bool} {a : Action} (ha : a.inBody stores = true) (s : State) :
    framesOf (a.run s).trace = framesOf s.trace ++ scriptFrames [a] := by
  cases a with
  | op m =>
    cases m
    case seqAt | store => exact (List.append_nil _).symm
    all_goals cases ha
  | emit m b =>
    rw [State.trace, Action.run, State.emit_heard, State.emit_pending, ← List.append_assoc, framesOf_append]
    rfl
  | resetPulse =>
    rw [State.trace, Action.run, State.pulse_heard, State.pulse_pending, ← List.append_assoc, framesOf_append]
    rfl

/-- A command's body puts the frames of its script on the wire, in order (R11, R105). -/
theorem framesOf_runActions_trace {stores : Bool} {as : List Action} (has : ∀ a ∈ as, a.inBody stores = true)
    (s : State) : framesOf (runActions as s).trace = framesOf s.trace ++ scriptFrames as := by
  induction as generalizing s with
  | nil => exact (List.append_nil _).symm
  | cons a as ih =>
    rw [runActions_cons, ih (fun a' h' => has a' (List.mem_cons_of_mem a h')),
      Action.framesOf_run_trace (has a List.mem_cons_self), List.append_assoc, ← scriptFrames_cons]

/-- Only INIT pulses RST_N, once (R121). -/
theorem count_resetPulse_commandBody (i : Instr) (s : State) :
    (commandBody i s).count .resetPulse = (clearsInit i).toNat := by
  cases i
  case flush => simp [commandBody, flushWalk, flushColumn, clearsInit, List.count_eq_zero]
  case clear => simp [commandBody, clearsInit, List.count_eq_zero]
  case setpx c x y =>
    simp only [commandBody]
    split <;> rfl
  all_goals rfl

/-- The acceptance and the completion of a command are not seen on the pins. -/
theorem pinTrace_scriptOf {i : Instr} (hi : i.isHost = true) (s : State) :
    pinTrace (scriptMicros (scriptOf i s)) = pinTrace (scriptMicros (commandBody i s)) := by
  rw [scriptOf_eq hi, scriptMicros_cons, scriptMicros_append, scriptMicros_op, pinTrace_append, pinTrace_append]
  exact List.append_nil _

/-- The completion of a command changes neither the pins nor the wire. -/
theorem pins_and_trace_runActions_scriptOf {i : Instr} (hi : i.isHost = true) (s : State) :
    (runActions (scriptOf i s) s).pins =
        (runActions (commandBody i s) ((Micro.accept (hostWord i) (clearsInit i)).run s)).pins ∧
      (runActions (scriptOf i s) s).trace =
        (runActions (commandBody i s) ((Micro.accept (hostWord i) (clearsInit i)).run s)).trace := by
  rw [runActions_scriptOf hi]
  simp [Micro.run, State.trace]

/-- Settles O45: the command is its body between an acceptance and a completion that neither the pins nor the wire
show, and both the receiver and the wire get the body's frames. -/
theorem commandPinsReadBack : Obligations.CommandPinsReadBack := by
  intro i s t ha he hsceN hsclk hrstN r
  have hi := isHost_of_accepts ha
  obtain rfl : runActions (scriptOf i s) s = t := by
    rw [exec_host hi, if_pos ha] at he
    exact Host.Outcome.next.inj he
  obtain ⟨hpins, htrace⟩ := pins_and_trace_runActions_scriptOf hi s
  have hbody : ∀ a ∈ commandBody i s, a.inBody (storesFb i) = true := fun _ => mem_commandBody
  have hr : r = (Receiver.start s.pins).afterScript (commandBody i s) (runActions (scriptOf i s) s).pins := by
    rw [hpins, ← Receiver.read_body hbody (s := (Micro.accept (hostWord i) (clearsInit i)).run s) rfl
      ⟨hsceN, hsclk, hrstN⟩ rfl, ← pinTrace_scriptOf hi]
  have hframes : r.frames = scriptFrames (commandBody i s) := by rw [hr]; rfl
  have hpulses : r.pulses = (clearsInit i).toNat := by
    rw [hr, ← count_resetPulse_commandBody i s]
    exact Nat.zero_add _
  refine ⟨?_, by rw [hr]; rfl, ?_, by rw [hr]; rfl, hpulses.trans ?_⟩
  · rw [htrace, framesOf_runActions_trace hbody, hframes]
    rfl
  · rw [hframes, hr]
    exact Nat.zero_add _
  · cases i <;> rfl

/-! ## SEND -/

/-- The command word of SEND: its opcode, the mode in bit 8 and the byte below it (R73). -/
theorem hostWord_send (m : Mode) (v : Byte) :
    hostWord (.send m v) = 0x20000000#32 ||| (if m = .data then 0x100#32 else 0#32) ||| v.setWidth 32 := by
  cases m with
  | cmd => exact (append_zero_or_setWidth (n := 24) (m := 8) (0x2#4 ++ 0#19 ++ 0#1) v).symm
  | data => exact (append_zero_or_setWidth (n := 24) (m := 8) (0x2#4 ++ 0#19 ++ 1#1) v).symm

/-- DC is high just for a data frame (R82, R101). -/
theorem Mode.bit_eq (m : Mode) : m.bit = decide (m = .data) := by cases m <;> rfl

/-- Settles O20: SEND's body is the one frame. -/
theorem sendEmitsOneFrame : Obligations.SendEmitsOneFrame := by
  intro s m v hinit
  rw [exec_host rfl, accepts, if_pos hinit, runActions_scriptOf rfl, ← hostWord_send, ← Mode.bit_eq]
  simp [commandBody, clearsInit, finishOf, runActions_cons, runActions_nil, Action.run, Micro.run, State.emit]

end Sys2Proof.Machine
end

section
/-! PROOFS. The family 41_controller_protocol: the command words, the contrast reduction, and INIT, SETADDR and WRITE
(R120 to R128). -/

namespace Sys2Proof.Machine

/-! ## The whole of an accepted command -/

/-- An accepted command is the acceptance of its word, its body, its completion (R11, R23). -/
theorem exec_of_accepts {i : Instr} {s : State} (h : accepts i s = true) :
    exec i s = .next ((Micro.done (finishOf i s)).run
      (runActions (commandBody i s) ((Micro.accept (hostWord i) (clearsInit i)).run s))) := by
  rw [exec_host (isHost_of_accepts h), if_pos h, runActions_scriptOf (isHost_of_accepts h)]

/-! ## The command words -/

/-- The command word of INIT: its opcode and the contrast byte (R72). -/
theorem hostWord_init (c : Byte) : hostWord (.init c) = 0x10000000#32 ||| c.setWidth 32 :=
  (append_zero_or_setWidth (n := 24) (m := 8) (0x1#4 ++ 0#20) c).symm

/-- The command word of SETADDR: its opcode, the column from bit 8 and the bank (R74). -/
theorem hostWord_setaddr (col : BitVec 7) (bank : BitVec 3) :
    hostWord (.setaddr col bank) = 0x30000000#32 ||| (col.setWidth 32 <<< 8) ||| bank.setWidth 32 := by
  calc hostWord (.setaddr col bank)
    _ = (0x3#4 ++ 0#13 ++ col ++ 0#5 ++ bank).setWidth 32 := (BitVec.setWidth_eq _).symm
    _ = 0x30000000#32 ||| (col.setWidth 32 <<< 8) ||| 0#32 ||| bank.setWidth 32 :=
      BitVec.setWidth_append_append_append_eq_shiftLeft_setWidth_or
    _ = _ := by rw [BitVec.or_zero]

/-- The command word of WRITE: its opcode and the byte (R75). -/
theorem hostWord_write (v : Byte) : hostWord (.write v) = 0x40000000#32 ||| v.setWidth 32 :=
  (append_zero_or_setWidth (n := 24) (m := 8) (0x4#4 ++ 0#20) v).symm

/-! ## The contrast -/

theorem toNat_contrast7_clamp (c : Byte) : (contrast7 .clamp c).toNat = min c.toNat 127 := by
  simp only [contrast7]
  split
  case isTrue h =>
    rw [BitVec.extractLsb'_toNat, Nat.shiftRight_zero, Nat.mod_eq_of_lt (by omega), min_eq_left h]
  case isFalse h => exact (min_eq_right (by omega)).symm

theorem toNat_contrast7_mask (c : Byte) : (contrast7 .mask c).toNat = c.toNat % 128 :=
  BitVec.extractLsb'_toNat 0 7 c

theorem contrast7_clamp_eq_mask {c : Byte} (h : c.toNat ≤ 127) : contrast7 .clamp c = contrast7 .mask c := if_pos h

theorem toNat_vopByte (v : BitVec 7) : (vopByte v).toNat = 128 + v.toNat := by
  rw [vopByte_eq_append, BitVec.toNat_append, ← Nat.shiftLeft_add_eq_or_of_lt v.isLt]
  rfl

/-- Settles O19, from the value of each mode. -/
theorem contrastReducedToSevenBits : Obligations.ContrastReducedToSevenBits :=
  ⟨rfl, fun c => ⟨toNat_contrast7_clamp c, toNat_contrast7_mask c, contrast7_clamp_eq_mask,
    fun mode => toNat_vopByte (contrast7 mode c)⟩⟩

/-! ## INIT, SETADDR and WRITE -/

/-- The last bit of a Y-address frame is the bank's: the pin SDIN keeps it (R101). -/
theorem getLsbD_zero_yAddrByte (bank : BitVec 3) : (yAddrByte bank).getLsbD 0 = bank.getLsbD 0 := by
  rw [yAddrByte_eq_append, BitVec.getLsbD_append]
  rfl

/-- Settles O18: INIT is accepted in every state, and its body is the reset pulse and the five frames. -/
theorem initRunsFixedSequence : Obligations.InitRunsFixedSequence := by
  intro s c
  rw [exec_of_accepts (i := .init c) rfl, hostWord_init]
  simp [commandBody, clearsInit, finishOf, runActions_cons, runActions_nil, Action.run, Micro.run, State.emit,
    State.pulse, Mode.bit_eq, fsetByte, biasByte, vopByte, dctlByte]

/-- Settles O21: SETADDR's body is the two address frames, of which the second stays in SHIFT and on SDIN. -/
theorem setaddrEmitsAddressPair : Obligations.SetaddrEmitsAddressPair := by
  intro s col bank hinit
  rw [exec_of_accepts (i := .setaddr col bank) hinit, hostWord_setaddr, ← getLsbD_zero_yAddrByte]
  simp [commandBody, clearsInit, finishOf, runActions_cons, runActions_nil, Action.run, Micro.run, State.emit,
    Mode.bit_eq, xAddrByte, yAddrByte]

/-- Settles O22: WRITE's body is the one data frame. -/
theorem writeEmitsDataFrame : Obligations.WriteEmitsDataFrame := by
  intro s v hinit
  rw [exec_of_accepts (i := .write v) hinit, hostWord_write]
  simp [commandBody, clearsInit, finishOf, runActions_cons, runActions_nil, Action.run, Micro.run, State.emit,
    Mode.bit_eq]

end Sys2Proof.Machine
end

section
/-! PROOFS. The family 42_framebuffer: CLEAR, SETPX and GETPX as whole commands, SETPX seen pixel by pixel, and the packed
byte (R150 to R161, R170). -/

namespace Sys2Proof.Machine

/-! ## The bounds test and the lanes of a byte -/

theorem inBounds_iff (x y : Int) : inBounds x y = true ↔ 0 ≤ x ∧ x < 84 ∧ 0 ≤ y ∧ y < 48 := by
  simp [inBounds, and_assoc]

/-- Setting a lane directly sets that bit and keeps the seven others (R152). -/
theorem getLsbD_setLane (v : Byte) {b i : Nat} (c : Color) (hi : i < 8) :
    (setLane v b c).getLsbD i = if i = b then c.bit else v.getLsbD i := by
  simp only [setLane, BitVec.getLsbD_or, BitVec.getLsbD_and, BitVec.getLsbD_not, BitVec.getLsbD_shiftLeft,
    BitVec.getLsbD_setWidth, BitVec.getLsbD_one, BitVec.getLsbD_ofBool]
  rcases Nat.lt_trichotomy i b with hlt | rfl | hgt
  · simp [hi, hlt, hlt.ne]
  · simp [hi]
  · simp [hi, hgt.ne', Nat.sub_ne_zero_of_lt hgt]

theorem setLane_setLane_same (v : Byte) (b : Nat) (c : Color) : setLane (setLane v b c) b c = setLane v b c := by
  apply BitVec.eq_of_getLsbD_eq
  intro i hi
  rw [getLsbD_setLane _ c hi, getLsbD_setLane v c hi]
  split <;> rfl

/-! ## GETPX -/

/-- The word GETPX reads, with the pixel's byte and bit written out (R160). -/
theorem pixelWord_eq (x y : Int) (s : State) : pixelWord x y s =
    if 0 ≤ x ∧ x < 84 ∧ 0 ≤ y ∧ y < 48 then
      (if (s.fbRead (y.toNat / 8 * 84 + x.toNat)).getLsbD (y.toNat % 8) then 1#32 else 0#32)
    else 0#32 := by
  have hbit (b : Bool) : (BitVec.ofBool b).setWidth 32 = if b then 1#32 else 0#32 := by cases b <;> rfl
  simp only [pixelWord, inBounds_iff, hbit]
  rfl

/-- Settles O27: GETPX has an empty body and completes with the pixel's word. -/
theorem getpxReadsPixel : Obligations.GetpxReadsPixel := by
  intro s x y hinit
  rw [exec_of_accepts (i := .getpx x y) hinit, ← pixelWord_eq]
  simp [commandBody, clearsInit, finishOf, runActions_nil, Micro.run]

/-! ## CLEAR -/

/-- The memory after one value is written at each of a list of addresses. -/
def Memory.fill (m : Memory) (addrs : List Nat) (v : Byte) : Memory := addrs.foldl (fun m i => m.write i v) m

theorem Memory.read_fill (m : Memory) (addrs : List Nat) (v : Byte) (j : Nat) :
    (m.fill addrs v).read j = if j ∈ addrs then some v else m.read j := by
  induction addrs generalizing m with
  | nil => rfl
  | cons i addrs ih =>
    have hstep : (m.fill (i :: addrs) v).read j = ((m.write i v).fill addrs v).read j := rfl
    rw [hstep, ih, Memory.read_write]
    by_cases hj : j ∈ addrs <;> simp [hj]

theorem runActions_stores (addrs : List Nat) (v : Byte) (s : State) :
    runActions (addrs.map fun i => .op (.store i v)) s = { s with fb := s.fb.fill addrs v } := by
  induction addrs generalizing s with
  | nil => rfl
  | cons i addrs ih => exact ih { s with fb := s.fb.write i v }

/-- The command word of CLEAR: its opcode alone (R76). -/
theorem hostWord_clear : hostWord .clear = 0x60000000#32 := rfl

/-- The state an accepted CLEAR completes in. -/
def State.afterClear (s : State) : State :=
  { s with
    status := { s.status with busy := false }
    cur := 0x60000000#32
    fb := s.fb.fill (List.range 504) 0x00#8 }

/-- CLEAR as a whole (R150). -/
theorem exec_clear {s : State} (hinit : s.status.init = true) : exec .clear s = .next s.afterClear := by
  rw [exec_of_accepts (i := .clear) hinit, commandBody, runActions_stores]
  simp [clearsInit, finishOf, Micro.run, State.afterClear, hostWord_clear]

/-- A framebuffer byte after CLEAR (R150). -/
theorem State.fbRead_afterClear (s : State) (i : Nat) :
    s.afterClear.fbRead i = if i < 504 then 0x00#8 else s.fbRead i := by
  simp only [State.fbRead, State.afterClear, Memory.read_fill, List.mem_range]
  split <;> rfl

/-- CLEAR changes BUSY, CUR and the framebuffer only. -/
theorem State.afterClear_frame (s : State) : s.afterClear =
    { s with status := { s.status with busy := false }, cur := 0x60000000#32, fb := s.afterClear.fb } := by
  simp only [State.afterClear]

/-- Settles O24, from what each byte reads after CLEAR. -/
theorem clearZeroesFramebuffer : Obligations.ClearZeroesFramebuffer :=
  fun s hinit => ⟨s.afterClear, exec_clear hinit, fun i hi => (s.fbRead_afterClear i).trans (if_pos hi),
    fun i hi => (s.fbRead_afterClear i).trans (if_neg (Nat.not_lt.mpr hi)), s.afterClear_frame⟩

/-! ## SETPX -/

/-- The framebuffer after SETPX: in bounds, the pixel's byte with its lane set, written back (R152). -/
def State.setpxFb (s : State) (c : Color) (x y : Int) : Memory :=
  if inBounds x y then
    s.fb.write (pixelIndex x.toNat y.toNat) (setLane (s.fbRead (pixelIndex x.toNat y.toNat)) (y.toNat % 8) c)
  else s.fb

/-- The state an accepted SETPX completes in. -/
def State.afterSetpx (s : State) (c : Color) (x y : Int) : State :=
  { s with status := { s.status with busy := false }, cur := hostWord (.setpx c x y), fb := s.setpxFb c x y }

/-- SETPX as a whole (R152). -/
theorem exec_setpx {s : State} (hinit : s.status.init = true) (c : Color) (x y : Int) :
    exec (.setpx c x y) s = .next (s.afterSetpx c x y) := by
  rw [exec_of_accepts (i := .setpx c x y) hinit]
  cases h : inBounds x y <;>
    simp [commandBody, clearsInit, finishOf, runActions_cons, runActions_nil, Action.run, Micro.run, State.afterSetpx,
      State.setpxFb, h]

theorem State.afterSetpx_fb_of_outside {x y : Int} (h : inBounds x y = false) (s : State) (c : Color) :
    (s.afterSetpx c x y).fb = s.fb := if_neg (by simp [h])

theorem State.afterSetpx_fb_of_inside {x y : Int} (h : inBounds x y = true) (s : State) (c : Color) :
    (s.afterSetpx c x y).fb = s.fb.write (pixelIndex x.toNat y.toNat)
      (setLane (s.fbRead (pixelIndex x.toNat y.toNat)) (y.toNat % 8) c) := if_pos h

/-- A framebuffer byte after SETPX in bounds (R152). -/
theorem State.fbRead_afterSetpx {x y : Int} (h : inBounds x y = true) (s : State) (c : Color) (i : Nat) :
    (s.afterSetpx c x y).fbRead i =
      if i = pixelIndex x.toNat y.toNat then setLane (s.fbRead i) (y.toNat % 8) c else s.fbRead i := by
  simp only [State.fbRead, State.afterSetpx_fb_of_inside h, Memory.read_write]
  split
  next hi => rw [hi]; rfl
  next => rfl

/-- The byte and the lane of a pixel tell its coordinates (R52). -/
theorem pixelIndex_lane_inj {a x : Nat} (ha : a < 84) (hx : x < 84) (b y : Nat) :
    pixelIndex a b = pixelIndex x y ∧ b % 8 = y % 8 ↔ a = x ∧ b = y := by
  simp only [pixelIndex, fbIndex]
  omega

/-- SETPX in bounds on pixels: its own takes the colour, every other is kept (R154). -/
theorem State.pixel_afterSetpx {x y : Int} (h : inBounds x y = true) (s : State) (c : Color) {a : Nat} (ha : a < 84)
    (b : Nat) : (s.afterSetpx c x y).pixel a b =
      if a = x.toNat ∧ b = y.toNat then c.bit else s.pixel a b := by
  obtain ⟨hx0, hx, hy0, hy⟩ := (inBounds_iff x y).mp h
  simp only [State.pixel, State.fbRead_afterSetpx h, ← pixelIndex_lane_inj ha (show x.toNat < 84 by omega)]
  by_cases hi : pixelIndex a b = pixelIndex x.toNat y.toNat
  · simp [hi, getLsbD_setLane _ c (Nat.mod_lt b (by decide))]
  · simp [hi]

/-- States with equal pixels have equal framebuffer bytes (R52). -/
theorem State.fbRead_eq_of_pixel_eq {s t : State} (h : ∀ a b, a < 84 → s.pixel a b = t.pixel a b) (i : Nat) :
    s.fbRead i = t.fbRead i := by
  apply BitVec.eq_of_getLsbD_eq
  intro b hb
  rw [s.getLsbD_fbRead i hb, t.getLsbD_fbRead i hb, h _ _ (Nat.mod_lt i (by decide))]

/-- The same SETPX again leaves the framebuffer (R154). -/
theorem State.afterSetpx_afterSetpx_fb (s : State) (c : Color) (x y : Int) :
    ((s.afterSetpx c x y).afterSetpx c x y).fb = (s.afterSetpx c x y).fb := by
  cases h : inBounds x y
  case false => exact State.afterSetpx_fb_of_outside h _ c
  case true =>
    rw [State.afterSetpx_fb_of_inside h, State.fbRead_afterSetpx h, if_pos rfl, setLane_setLane_same,
      State.afterSetpx_fb_of_inside h, Memory.write_write_same]

/-- Two SETPX to different pixels in bounds commute: neither writes the other's pixel (R154). -/
theorem State.fbRead_afterSetpx_comm {x y x' y' : Int} (h : inBounds x y = true) (h' : inBounds x' y' = true)
    (hne : x ≠ x' ∨ y ≠ y') (s : State) (c c' : Color) (i : Nat) :
    ((s.afterSetpx c x y).afterSetpx c' x' y').fbRead i = ((s.afterSetpx c' x' y').afterSetpx c x y).fbRead i := by
  refine State.fbRead_eq_of_pixel_eq (fun a b ha => ?_) i
  have hdiff : ¬ ((a = x.toNat ∧ b = y.toNat) ∧ a = x'.toNat ∧ b = y'.toNat) := by
    rw [inBounds_iff] at h h'
    omega
  simp only [State.pixel_afterSetpx h _ _ ha, State.pixel_afterSetpx h' _ _ ha]
  split_ifs with hp' hp
  · exact absurd ⟨hp, hp'⟩ hdiff
  all_goals rfl

/-- Settles O25, from the byte SETPX writes in bounds. -/
theorem setpxSetsOnePixel : Obligations.SetpxSetsOnePixel := by
  intro s c x y hinit
  have hbit : (BitVec.ofBool c.bit).setWidth 8 = if c = .black then 1#8 else 0#8 := by cases c <;> rfl
  refine ⟨_, exec_setpx hinit c x y, ?_, rfl⟩
  split
  next h =>
    intro i
    rw [State.fbRead_afterSetpx ((inBounds_iff x y).mpr h), setLane, hbit]
    rfl
  next h => exact State.afterSetpx_fb_of_outside (by simpa [← inBounds_iff] using h) s c

/-- Settles O26: the four laws, each from its own lemma on the state SETPX completes in. -/
theorem setpxLaws : Obligations.SetpxLaws := by
  intro s c c' x y x' y' hinit
  have hinit_after (c x y) : (s.afterSetpx c x y).status.init = true := hinit
  refine ⟨_, _, _, _, _, exec_setpx hinit c x y, exec_setpx (hinit_after c x y) c x y,
    exec_setpx (hinit_after c x y) c' x' y', exec_setpx hinit c' x' y', exec_setpx (hinit_after c' x' y') c x y, fun h => ?clipped, fun h => ⟨?own, fun a b ha _ hne => ?others⟩,
    s.afterSetpx_afterSetpx_fb c x y, fun h h' hne => State.fbRead_afterSetpx_comm h h' hne s c c'⟩
  case clipped => exact ⟨State.afterSetpx_fb_of_outside h s c, rfl, rfl⟩
  case own =>
    obtain ⟨hx0, hx, -, -⟩ := (inBounds_iff x y).mp h
    rw [State.pixel_afterSetpx h s c (by omega), if_pos ⟨rfl, rfl⟩]
  case others => rw [State.pixel_afterSetpx h s c ha, if_neg (by tauto)]

/-! ## The packed byte -/

/-- A byte put together lane by lane has the lanes put into it. -/
theorem getLsbD_foldl_lanes (f : Nat → Bool) (n : Nat) {i : Nat} (hi : i < 8) :
    ((List.range n).foldl (fun acc b => acc ||| ((BitVec.ofBool (f b)).setWidth 8 <<< b)) 0#8).getLsbD i =
      (decide (i < n) && f i) := by
  induction n with
  | zero => simp
  | succ n ih =>
    rw [List.range_succ, List.foldl_append, List.foldl_cons, List.foldl_nil, BitVec.getLsbD_or, ih,
      BitVec.getLsbD_shiftLeft, BitVec.getLsbD_setWidth, BitVec.getLsbD_ofBool]
    rcases Nat.lt_trichotomy i n with hlt | rfl | hgt
    · simp [hlt, Nat.lt_succ_of_lt hlt]
    · simp [hi]
    · simp [hi, Nat.not_lt.mpr hgt.le, Nat.not_lt.mpr (Nat.succ_le_of_lt hgt), Nat.sub_ne_zero_of_lt hgt]

/-- Lane `b` of a packed byte is the pixel of that row in the bank (R170). -/
theorem State.getLsbD_pack (s : State) (bank col : Nat) {b : Nat} (hb : b < 8) :
    (s.pack bank col).getLsbD b = s.pixel col (8 * bank + b) := by
  rw [State.pack, getLsbD_foldl_lanes (fun b => s.pixel col (8 * bank + b)) 8 hb, decide_eq_true hb, Bool.true_and]

/-- The packed byte is the framebuffer byte of its bank and column (R170). -/
theorem State.pack_eq_fbRead (s : State) (bank : Nat) {col : Nat} (hcol : col < 84) :
    s.pack bank col = s.fbRead (bank * 84 + col) := by
  have hmod : (bank * 84 + col) % 84 = col := by omega
  have hdiv : (bank * 84 + col) / 84 = bank := by omega
  apply BitVec.eq_of_getLsbD_eq
  intro b hb
  rw [s.getLsbD_pack bank col hb, s.getLsbD_fbRead _ hb, hmod, hdiv]

/-- Settles O32, lane by lane. -/
theorem packIsFramebufferByte : Obligations.PackIsFramebufferByte :=
  fun s bank col _ hcol => ⟨s.pack_eq_fbRead bank hcol, fun _ hb => s.getLsbD_pack bank col hb⟩

end Sys2Proof.Machine
end

section
/-! PROOFS. The family 43_display_sync: the walk of FLUSH as the framebuffer bytes in index order, FLUSH as a whole, and
what other commands leave of what a FLUSH sends (R181 to R184). -/

namespace Sys2Proof.Machine

/-! ## The walk -/

/-- Rows outside and columns inside, both ascending, are the indices in order. -/
theorem range_mul_eq_flatMap (m n : Nat) :
    List.range (m * n) = (List.range m).flatMap fun i => (List.range n).map (i * n + ·) := by
  induction m with
  | zero => simp
  | succ m ih => rw [Nat.succ_mul, List.range_add, ih, List.range_succ, List.flatMap_append, List.flatMap_singleton]

/-- The stop of the walk at one framebuffer index (R50, R181). -/
def flushStop (s : State) (k : Nat) : List Action := [.op (.seqAt (k / 84) (k % 84)), .emit .data (s.fbRead k)]

theorem flushColumn_eq_flushStop (s : State) (bank : Nat) {col : Nat} (hcol : col < 84) :
    flushColumn s bank col = flushStop s (bank * 84 + col) := by
  have hdiv : (bank * 84 + col) / 84 = bank := by omega
  have hmod : (bank * 84 + col) % 84 = col := by omega
  rw [flushColumn, flushStop, hdiv, hmod, s.pack_eq_fbRead bank hcol]

/-- The walk stops at the 504 indices in order (R181). -/
theorem flushWalk_eq_flatMap_flushStop (s : State) : flushWalk s = (List.range 504).flatMap (flushStop s) := by
  have hbank (bank : Nat) : (List.range 84).flatMap (flushColumn s bank) =
      ((List.range 84).map (bank * 84 + ·)).flatMap (flushStop s) := by
    rw [List.flatMap_map]
    exact List.flatMap_congr fun col hcol => flushColumn_eq_flushStop s bank (List.mem_range.mp hcol)
  rw [show 504 = 6 * 84 from rfl, range_mul_eq_flatMap, List.flatMap_assoc, flushWalk]
  exact List.flatMap_congr fun bank _ => hbank bank

/-- The block `u` once the walk over the framebuffer of `s` has sent the bytes up to index `n`. -/
def State.walkedTo (s : State) (n : Nat) (u : State) : State :=
  { u with
    seqBank := n / 84
    seqCol := n % 84
    shift := s.fbRead n
    bitcnt := 8
    pins := { u.pins with sclk := false, sdin := (s.fbRead n).getLsbD 0, dc := true, sceN := true }
    pending := u.pending ++ (List.range (n + 1)).map fun k => .frame .data (s.fbRead k) }

/-- One more stop of the walk (R181). -/
theorem runActions_flushStop_walkedTo (s : State) (n : Nat) (u : State) :
    runActions (flushStop s (n + 1)) (s.walkedTo n u) = s.walkedTo (n + 1) u := by
  rw [State.walkedTo, State.walkedTo, List.range_succ (n := n + 1), List.map_append, ← List.append_assoc]
  rfl

/-- The walk sends the framebuffer bytes in index order (R181). -/
theorem runActions_flushStops (s : State) (n : Nat) (u : State) :
    runActions ((List.range (n + 1)).flatMap (flushStop s)) u = s.walkedTo n u := by
  induction n with
  | zero => rfl
  | succ n ih =>
    rw [List.range_succ, List.flatMap_append, List.flatMap_singleton, runActions_append, ih,
      runActions_flushStop_walkedTo]

/-! ## FLUSH as a whole -/

/-- What FLUSH puts on the wire: the address pair of (0, 0) and the framebuffer bytes in index order (R181). -/
def State.flushEvents (s : State) : List WireEvent :=
  .frame .cmd 0x80#8 :: .frame .cmd 0x40#8 :: (List.range 504).map fun k => .frame .data (s.fbRead k)

/-- The state an accepted FLUSH completes in. -/
def State.afterFlush (s : State) : State :=
  { s with
    status := { s.status with busy := false }
    cur := 0x50000000#32
    seqBank := 0
    seqCol := 0
    shift := s.fbRead 503
    bitcnt := 8
    pins := { sclk := false, sdin := (s.fbRead 503).getLsbD 0, dc := true, sceN := true, rstN := s.pins.rstN }
    pending := s.pending ++ s.flushEvents }

/-- The command word of FLUSH: its opcode alone (R76). -/
theorem hostWord_flush : hostWord .flush = 0x50000000#32 := rfl

/-- FLUSH as a whole: the address pair, the walk to the last byte, and the sequencer back at its start (R181). -/
theorem exec_flush {s : State} (hinit : s.status.init = true) : exec .flush s = .next s.afterFlush := by
  rw [exec_of_accepts (i := .flush) hinit, commandBody, runActions_cons, runActions_cons, runActions_append,
    flushWalk_eq_flatMap_flushStop, runActions_flushStops s 503]
  simp [clearsInit, finishOf, runActions_cons, runActions_nil, Action.run, Micro.run, State.walkedTo, State.afterFlush,
    State.flushEvents, hostWord_flush, xAddrByte, yAddrByte]

/-- Settles O23: the walk's bytes are the framebuffer's, and each is the packed byte of its bank and column. -/
theorem flushSendsWholeFramebuffer : Obligations.FlushSendsWholeFramebuffer := by
  intro s hinit
  refine ⟨exec_flush hinit, fun k _ => ?_⟩
  rw [s.pack_eq_fbRead (k / 84) (Nat.mod_lt k (by decide)), Nat.div_add_mod']

/-! ## What other commands leave of what a FLUSH sends -/

/-- From `s` to `t` the block stays initialised, every framebuffer byte reads as before, and the wire only grew. -/
structure State.SameFlush (s t : State) : Prop where
  init : t.status.init = true
  fbRead : ∀ i, t.fbRead i = s.fbRead i
  trace : ∃ es, t.trace = s.trace ++ es

theorem State.SameFlush.refl {s : State} (h : s.status.init = true) : s.SameFlush s :=
  ⟨h, fun _ => rfl, [], (List.append_nil _).symm⟩

theorem State.SameFlush.trans {s t u : State} (hst : s.SameFlush t) (htu : t.SameFlush u) : s.SameFlush u := by
  obtain ⟨ds, hds⟩ := hst.trace
  obtain ⟨es, hes⟩ := htu.trace
  exact ⟨htu.init, fun i => (htu.fbRead i).trans (hst.fbRead i), ds ++ es, by rw [hes, hds, List.append_assoc]⟩

/-- FLUSH sends what the framebuffer bytes say, and nothing else of the state (R184). -/
theorem State.SameFlush.flushEvents_eq {s t : State} (h : s.SameFlush t) : t.flushEvents = s.flushEvents := by
  simp only [State.flushEvents, h.fbRead]

theorem State.trace_afterFlush (s : State) : s.afterFlush.trace = s.trace ++ s.flushEvents :=
  (List.append_assoc _ _ _).symm

theorem State.fbRead_afterFlush (s : State) (i : Nat) : s.afterFlush.fbRead i = s.fbRead i := rfl

theorem framesOf_flushEvents (s : State) : framesOf s.flushEvents =
    (.cmd, 0x80#8) :: (.cmd, 0x40#8) :: (List.range 504).map fun k => (.data, s.fbRead k) := by
  simp only [State.flushEvents, framesOf, List.filterMap_cons, List.filterMap_map, Function.comp_def,
    List.filterMap_eq_map']

/-- An initialised block accepts every host command (R27). -/
theorem accepts_of_init {i : Instr} {s : State} (hi : i.isHost = true) (hinit : s.status.init = true) :
    accepts i s = true := by
  cases i
  case init => rfl
  case fset | dctl | yaddr | xaddr | tempco | bias | vop | data => cases hi
  all_goals exact hinit

/-- An accepted command leaves the block initialised: INIT sets STATUS.INIT, the others keep it (R22, R124). -/
theorem init_runActions_scriptOf {i : Instr} {s : State} (h : accepts i s = true) :
    (runActions (scriptOf i s) s).status.init = true := by
  have hi := isHost_of_accepts h
  cases hc : clearsInit i
  case false =>
    have hne : ∀ c, i ≠ .init c := by
      rintro c rfl
      cases hc
    exact (runActions_scriptOf_init hi hne s).1.trans (init_of_accepts h hc)
  case true =>
    cases i
    case init c => rfl
    all_goals cases hc

/-- A script only adds to the wire. -/
theorem trace_runActions (as : List Action) (s : State) : ∃ es, (runActions as s).trace = s.trace ++ es := by
  obtain ⟨es, hes⟩ := runMicros_pending (scriptMicros as) s
  rw [microsRefineTransactions] at hes
  exact ⟨es, by rw [State.trace, runActions_heard, hes, State.trace, List.append_assoc]⟩

/-- A command other than CLEAR and an in-bounds SETPX leaves the framebuffer (R56, R153). -/
theorem fb_runActions_scriptOf {i : Instr} (hi : i.isHost = true) (hclear : i ≠ .clear)
    (hout : ∀ c x y, i = .setpx c x y → inBounds x y = false) (s : State) :
    (runActions (scriptOf i s) s).fb = s.fb := by
  cases i
  case setpx c x y =>
    simp [runActions_scriptOf hi, commandBody, hout c x y rfl, runActions_nil, finishOf, Micro.run]
  case clear => exact absurd rfl hclear
  all_goals exact runActions_scriptOf_fb hi rfl s

/-- Is this a host command between two FLUSH commands that R184 speaks of: no CLEAR and no in-bounds SETPX? -/
def KeepsFramebuffer (i : Instr) : Prop :=
  i.isHost = true ∧ i ≠ .clear ∧ ∀ c x y, i = .setpx c x y → inBounds x y = false

theorem exec_sameFlush {i : Instr} {s : State} (hk : KeepsFramebuffer i) (hinit : s.status.init = true) :
    ∃ t, exec i s = .next t ∧ s.SameFlush t := by
  obtain ⟨hi, hclear, hout⟩ := hk
  have ha := accepts_of_init hi hinit
  refine ⟨runActions (scriptOf i s) s, by rw [exec_host hi, if_pos ha],
    init_runActions_scriptOf ha, fun a => ?_, trace_runActions _ s⟩
  rw [State.fbRead, State.fbRead, fb_runActions_scriptOf hi hclear hout, runActions_draw]

/-- Such commands one after another all complete, and leave what a FLUSH sends (R184). -/
theorem execAll_sameFlush {is : List Instr} {s : State} (hk : ∀ i ∈ is, KeepsFramebuffer i)
    (hinit : s.status.init = true) : ∃ t, execAll is s = .next t ∧ s.SameFlush t := by
  induction is generalizing s with
  | nil => exact ⟨s, rfl, .refl hinit⟩
  | cons i is ih =>
    obtain ⟨t, ht, hst⟩ := exec_sameFlush (hk i List.mem_cons_self) hinit
    obtain ⟨u, hu, htu⟩ := ih (fun j hj => hk j (List.mem_cons_of_mem i hj)) hst.init
    exact ⟨u, by simp only [execAll, ht, hu], hst.trans htu⟩

/-- Settles O31: the commands in between leave every framebuffer byte, and the bytes are all that a FLUSH sends. -/
theorem flushTwiceEmitsTheSame : Obligations.FlushTwiceEmitsTheSame := by
  intro s between hinit hbetween
  obtain ⟨u, hu, htu⟩ := execAll_sameFlush (s := s.afterFlush) hbetween hinit
  obtain ⟨mid, hmid⟩ := htu.trace
  have hevents : u.flushEvents = s.flushEvents := htu.flushEvents_eq
  exact ⟨s.afterFlush, u, u.afterFlush, s.flushEvents, mid, exec_flush hinit, hu, exec_flush htu.init,
    s.trace_afterFlush, hmid, hevents ▸ u.trace_afterFlush, framesOf_flushEvents s,
    fun i => ⟨s.fbRead_afterFlush i, htu.fbRead i⟩⟩

end Sys2Proof.Machine
end

section
/-! PROOFS. The family 44_wire_commands, the frames at the controller: what each leaves of its record, every command byte
by its value, and the visible pixel (R200 to R214). -/

namespace Sys2Proof.Machine

/-! ## A frame at a known controller -/

/-- With horizontal addressing a frame acts on the record (R213). -/
theorem Lcd.take_of_horizontal {r : LcdRegs} (hv : r.v = false) (f : LcdRegs → Lcd) : (Lcd.known r).take f = f r :=
  if_neg (by simp [hv])

/-- A frame that decodes has the effect of its instruction (R201). -/
theorem Lcd.frame_of_decodes {r : LcdRegs} {m : Mode} {b : Byte} {i : Instr}
    (hd : decodeFrame r.h (frameBits m b) = .ok i) : (Lcd.known r).frame m b = Lcd.apply i (.known r) := by
  simp only [Lcd.frame, hd]

/-- A frame without a meaning leaves UNDEF (R213). -/
theorem Lcd.frame_of_rejected {r : LcdRegs} {m : Mode} {b : Byte} {e : Reject}
    (hd : decodeFrame r.h (frameBits m b) = .error e) : (Lcd.known r).frame m b = .undef := by
  simp only [Lcd.frame, hd]

theorem Lcd.frame_undef (m : Mode) (b : Byte) : Lcd.undef.frame m b = .undef := rfl

theorem Lcd.apply_data {r : LcdRegs} (hv : r.v = false) (d : Byte) : Lcd.apply (.data d) (.known r) =
    .known { r with ddram := r.ddram.write (fbIndex r.y r.x) d }.advance := by
  rw [Lcd.apply, Lcd.data, Lcd.take_of_horizontal hv]

theorem Lcd.apply_fset {r : LcdRegs} (hv : r.v = false) (pd v h : Bool) :
    Lcd.apply (.fset pd v h) (.known r) = .known { r with pd := pd, v := v, h := h } := by
  rw [Lcd.apply, Lcd.fset, Lcd.take_of_horizontal hv]

theorem Lcd.apply_dctl {r : LcdRegs} (hv : r.v = false) (hh : r.h = false) (d e : Bool) :
    Lcd.apply (.dctl d e) (.known r) = .known { r with d := d, e := e } := by
  rw [Lcd.apply, Lcd.dctl, Lcd.take_of_horizontal hv, if_neg (by simp [hh])]

theorem Lcd.apply_yaddr {r : LcdRegs} (hv : r.v = false) (hh : r.h = false) (bank : BitVec 3) :
    Lcd.apply (.yaddr bank) (.known r) = if bank.toNat < 6 then .known { r with y := bank.toNat } else .undef := by
  rw [Lcd.apply, Lcd.yaddr, Lcd.take_of_horizontal hv, if_neg (by simp [hh])]

theorem Lcd.apply_xaddr {r : LcdRegs} (hv : r.v = false) (hh : r.h = false) (col : BitVec 7) :
    Lcd.apply (.xaddr col) (.known r) = if col.toNat < 84 then .known { r with x := col.toNat } else .undef := by
  rw [Lcd.apply, Lcd.xaddr, Lcd.take_of_horizontal hv, if_neg (by simp [hh]), LcdRegs.setX]

theorem Lcd.apply_tempco {r : LcdRegs} (hv : r.v = false) (hh : r.h = true) (tc : BitVec 2) :
    Lcd.apply (.tempco tc) (.known r) = .known { r with tc := tc } := by
  rw [Lcd.apply, Lcd.tempco, Lcd.take_of_horizontal hv, if_pos hh]

theorem Lcd.apply_bias {r : LcdRegs} (hv : r.v = false) (hh : r.h = true) (bs : BitVec 3) :
    Lcd.apply (.bias bs) (.known r) = .known { r with bs := bs } := by
  rw [Lcd.apply, Lcd.bias, Lcd.take_of_horizontal hv, if_pos hh]

theorem Lcd.apply_vop {r : LcdRegs} (hv : r.v = false) (hh : r.h = true) (v : BitVec 7) :
    Lcd.apply (.vop v) (.known r) = .known { r with vop := v } := by
  rw [Lcd.apply, Lcd.vop, Lcd.take_of_horizontal hv, if_pos hh, LcdRegs.setVop]

/-- A wire frame executed at a known controller. -/
theorem exec_wire_known {i : Instr} (hi : i.isHost = false) {s : State} {r : LcdRegs} (hl : s.lcd = .known r) :
    exec i s = .next { s with lcd := Lcd.apply i (.known r) } := by
  rw [exec_wire_eq hi, hl]

/-- Settles O34: each frame's effect on the record. -/
theorem controllerRegisterFrames : Obligations.ControllerRegisterFrames := by
  intro s r hl hv
  refine ⟨fun pd v h => ?_, fun hh d e => ?_, fun hh tc => ?_, fun hh bs => ?_, fun hh v => ?_⟩
  · rw [exec_wire_known rfl hl, Lcd.apply_fset hv]
  · rw [exec_wire_known rfl hl, Lcd.apply_dctl hv hh]
  · rw [exec_wire_known rfl hl, Lcd.apply_tempco hv hh]
  · rw [exec_wire_known rfl hl, Lcd.apply_bias hv hh]
  · rw [exec_wire_known rfl hl, Lcd.apply_vop hv hh]

/-- Settles O35: the patterns of the two address bytes, and what their frames leave of the pointer. -/
theorem controllerAddressFrames : Obligations.ControllerAddressFrames := by
  refine ⟨fun col => ?_, fun bank => ?_, fun s r hl hv hh => ⟨fun col => ?_, fun bank => ?_⟩⟩
  · rw [decodeFrame_cmd, if_neg (by decide), decodeNormal_xaddr]
  · rw [decodeFrame_cmd, if_neg (by decide), decodeNormal_yaddr]
  · rw [exec_wire_known rfl hl, Lcd.apply_xaddr hv hh]
    simp only [Nat.lt_succ_iff]
  · rw [exec_wire_known rfl hl, Lcd.apply_yaddr hv hh]
    simp only [Nat.lt_succ_iff]

/-! ## The data frame -/

/-- The address of a bank and a column tells them apart (R50). -/
theorem fbIndex_inj {bank col bank' col' : Nat} (hc : col < 84) (hc' : col' < 84) :
    fbIndex bank col = fbIndex bank' col' ↔ bank = bank' ∧ col = col' := by
  unfold fbIndex
  omega

/-- The auto-increment moves the pointer and nothing else (R211). -/
theorem LcdRegs.advance_eq (r : LcdRegs) : r.advance =
    { r with
      x := if r.x = 83 then 0 else r.x + 1
      y := if r.x = 83 then (if r.y = 5 then 0 else r.y + 1) else r.y } := by
  simp only [LcdRegs.advance, Nat.reduceEqDiff]
  split <;> rfl

/-- Settles O37: the write at the pointer's address, and the auto-increment. -/
theorem dataFrameStoresAndAdvances : Obligations.DataFrameStoresAndAdvances := by
  intro s r d hl hv hx hy
  refine ⟨_, by rw [exec_wire_known rfl hl, Lcd.apply_data hv], ?_⟩
  rw [LcdRegs.advance_eq]
  refine ⟨fun bank col _ hc => ?_, rfl, rfl, rfl⟩
  simp only [LcdRegs.dd, Memory.read_write, fbIndex_inj hc hx]

/-! ## The command bytes by their values -/

/-- A field as division by the weight of its lowest bit, with remainder by its size. -/
theorem extractLsb'_eq_iff {n : Nat} (b : BitVec n) (lo len : Nat) (v : BitVec len) :
    b.extractLsb' lo len = v ↔ b.toNat / 2 ^ lo % 2 ^ len = v.toNat := by
  rw [BitVec.toNat_eq, BitVec.extractLsb'_toNat, Nat.shiftRight_eq_div_pow]

theorem getLsbD_eq_decide {n : Nat} (b : BitVec n) (i : Nat) : b.getLsbD i = decide (b.toNat / 2 ^ i % 2 = 1) := by
  rw [BitVec.getLsbD, Nat.testBit_eq_decide_div_mod_eq]

/-- Function-set is the bytes 0x20 to 0x27 (R203). -/
theorem isFset_iff (b : Byte) : b.extractLsb' 3 5 = 0b00100#5 ↔ 0x20 ≤ b.toNat ∧ b.toNat ≤ 0x27 := by
  have hb := b.isLt
  rw [extractLsb'_eq_iff, BitVec.toNat_ofNat]
  omega

theorem highBit_iff (b : Byte) : b.getLsbD 7 = true ↔ 0x80 ≤ b.toNat := by
  have hb := b.isLt
  rw [getLsbD_eq_decide, decide_eq_true_eq]
  omega

/-- The Y-address is the bytes 0x40 to 0x47 (R205). -/
theorem isYaddr_iff (b : Byte) : b.extractLsb' 3 5 = 0b01000#5 ↔ 0x40 ≤ b.toNat ∧ b.toNat ≤ 0x47 := by
  have hb := b.isLt
  rw [extractLsb'_eq_iff, BitVec.toNat_ofNat]
  omega

/-- Display-control is four bytes (R204). -/
theorem isDctl_iff (b : Byte) : (b.extractLsb' 3 5 = 0b00001#5 ∧ b.getLsbD 1 = false) ↔
    b.toNat = 0x08 ∨ b.toNat = 0x09 ∨ b.toNat = 0x0C ∨ b.toNat = 0x0D := by
  have hb := b.isLt
  rw [extractLsb'_eq_iff, BitVec.toNat_ofNat, getLsbD_eq_decide, decide_eq_false_iff_not]
  omega

/-- Bias is the bytes 0x10 to 0x17 (R208). -/
theorem isBias_iff (b : Byte) : b.extractLsb' 3 5 = 0b00010#5 ↔ 0x10 ≤ b.toNat ∧ b.toNat ≤ 0x17 := by
  have hb := b.isLt
  rw [extractLsb'_eq_iff, BitVec.toNat_ofNat]
  omega

/-- The temperature coefficient is the bytes 0x04 to 0x07 (R207). -/
theorem isTempco_iff (b : Byte) : b.extractLsb' 2 6 = 0b000001#6 ↔ 0x04 ≤ b.toNat ∧ b.toNat ≤ 0x07 := by
  have hb := b.isLt
  rw [extractLsb'_eq_iff, BitVec.toNat_ofNat]
  omega

theorem toNat_lowThree {b : Byte} (h : 0x40 ≤ b.toNat ∧ b.toNat ≤ 0x47) :
    (b.extractLsb' 0 3).toNat = b.toNat - 0x40 := by
  rw [BitVec.extractLsb'_toNat, Nat.shiftRight_zero]
  omega

theorem toNat_lowSeven {b : Byte} (h : 0x80 ≤ b.toNat) : (b.extractLsb' 0 7).toNat = b.toNat - 0x80 := by
  have hb := b.isLt
  rw [BitVec.extractLsb'_toNat, Nat.shiftRight_zero]
  omega

/-- A command frame in the normal set decodes as its byte does there (R201). -/
theorem Lcd.frame_cmd_normal {r : LcdRegs} (hh : r.h = false) {b : Byte} {i : Instr} (hd : decodeNormal b = .ok i) :
    (Lcd.known r).frame .cmd b = Lcd.apply i (.known r) :=
  Lcd.frame_of_decodes (by rw [decodeFrame_cmd, if_neg (by simp [hh]), hd])

/-- A command frame in the extended set decodes as its byte does there (R201). -/
theorem Lcd.frame_cmd_extended {r : LcdRegs} (hh : r.h = true) {b : Byte} {i : Instr} (hd : decodeExtended b = .ok i) :
    (Lcd.known r).frame .cmd b = Lcd.apply i (.known r) :=
  Lcd.frame_of_decodes (by rw [decodeFrame_cmd, if_pos hh, hd])

theorem Lcd.frame_data {r : LcdRegs} (hv : r.v = false) (d : Byte) : (Lcd.known r).frame .data d =
    .known { r with ddram := r.ddram.write (fbIndex r.y r.x) d }.advance :=
  (Lcd.frame_of_decodes (decodeFrame_data r.h d)).trans (Lcd.apply_data hv d)

/-- The normal set by the value of the byte (R203 to R206, R213). -/
theorem decodeNormal_eq (b : Byte) : decodeNormal b =
    if 0x20 ≤ b.toNat ∧ b.toNat ≤ 0x27 then .ok (.fset (b.getLsbD 2) (b.getLsbD 1) (b.getLsbD 0))
    else if 0x80 ≤ b.toNat then .ok (.xaddr (b.extractLsb' 0 7))
    else if 0x40 ≤ b.toNat ∧ b.toNat ≤ 0x47 then .ok (.yaddr (b.extractLsb' 0 3))
    else if b.toNat = 0x08 ∨ b.toNat = 0x09 ∨ b.toNat = 0x0C ∨ b.toNat = 0x0D then
      .ok (.dctl (b.getLsbD 2) (b.getLsbD 0))
    else .error .noPattern := by
  simp only [decodeNormal, isFset_iff, highBit_iff, isYaddr_iff, isDctl_iff]

/-- The extended set by the value of the byte (R203, R207 to R209, R213). -/
theorem decodeExtended_eq (b : Byte) : decodeExtended b =
    if 0x20 ≤ b.toNat ∧ b.toNat ≤ 0x27 then .ok (.fset (b.getLsbD 2) (b.getLsbD 1) (b.getLsbD 0))
    else if 0x80 ≤ b.toNat then .ok (.vop (b.extractLsb' 0 7))
    else if 0x10 ≤ b.toNat ∧ b.toNat ≤ 0x17 then .ok (.bias (b.extractLsb' 0 3))
    else if 0x04 ≤ b.toNat ∧ b.toNat ≤ 0x07 then .ok (.tempco (b.extractLsb' 0 2))
    else .error .noPattern := by
  simp only [decodeExtended, isFset_iff, highBit_iff, isBias_iff, isTempco_iff]

/-- Every command byte in the normal set (R203 to R206, R213). -/
theorem Lcd.frame_cmd_normal_eq {r : LcdRegs} (hv : r.v = false) (hh : r.h = false) (b : Byte) :
    (Lcd.known r).frame .cmd b =
      if 0x20 ≤ b.toNat ∧ b.toNat ≤ 0x27 then
        .known { r with pd := b.getLsbD 2, v := b.getLsbD 1, h := b.getLsbD 0 }
      else if b.toNat = 0x08 ∨ b.toNat = 0x09 ∨ b.toNat = 0x0C ∨ b.toNat = 0x0D then
        .known { r with d := b.getLsbD 2, e := b.getLsbD 0 }
      else if 0x40 ≤ b.toNat ∧ b.toNat ≤ 0x45 then .known { r with y := b.toNat - 0x40 }
      else if 0x80 ≤ b.toNat ∧ b.toNat ≤ 0xD3 then .known { r with x := b.toNat - 0x80 }
      else .undef := by
  have hd := decodeNormal_eq b
  split_ifs at hd with hfset hx hy hdctl
  · rw [Lcd.frame_cmd_normal hh hd, Lcd.apply_fset hv, if_pos hfset]
  · rw [Lcd.frame_cmd_normal hh hd, if_neg hfset, if_neg (by omega), if_neg (by omega), Lcd.apply_xaddr hv hh,
      toNat_lowSeven hx]
    exact if_congr (by omega) rfl rfl
  · rw [Lcd.frame_cmd_normal hh hd, if_neg hfset, if_neg (by omega),
      if_neg (c := 0x80 ≤ b.toNat ∧ b.toNat ≤ 0xD3) (by omega), Lcd.apply_yaddr hv hh, toNat_lowThree hy]
    exact if_congr (by omega) rfl rfl
  · rw [Lcd.frame_cmd_normal hh hd, Lcd.apply_dctl hv hh, if_neg hfset, if_pos hdctl]
  · rw [Lcd.frame_of_rejected (by rw [decodeFrame_cmd, if_neg (by simp [hh]), hd]), if_neg hfset, if_neg hdctl,
      if_neg (by omega), if_neg (by omega)]

/-- Every command byte in the extended set (R203, R207 to R209, R213). -/
theorem Lcd.frame_cmd_extended_eq {r : LcdRegs} (hv : r.v = false) (hh : r.h = true) (b : Byte) :
    (Lcd.known r).frame .cmd b =
      if 0x20 ≤ b.toNat ∧ b.toNat ≤ 0x27 then
        .known { r with pd := b.getLsbD 2, v := b.getLsbD 1, h := b.getLsbD 0 }
      else if 0x04 ≤ b.toNat ∧ b.toNat ≤ 0x07 then .known { r with tc := b.extractLsb' 0 2 }
      else if 0x10 ≤ b.toNat ∧ b.toNat ≤ 0x17 then .known { r with bs := b.extractLsb' 0 3 }
      else if 0x80 ≤ b.toNat then .known { r with vop := b.extractLsb' 0 7 }
      else .undef := by
  have hd := decodeExtended_eq b
  split_ifs at hd with hfset hvop hbias htempco
  · rw [Lcd.frame_cmd_extended hh hd, Lcd.apply_fset hv, if_pos hfset]
  · rw [Lcd.frame_cmd_extended hh hd, Lcd.apply_vop hv hh, if_neg hfset, if_neg (by omega), if_neg (by omega),
      if_pos hvop]
  · rw [Lcd.frame_cmd_extended hh hd, Lcd.apply_bias hv hh, if_neg hfset, if_neg (by omega), if_pos hbias]
  · rw [Lcd.frame_cmd_extended hh hd, Lcd.apply_tempco hv hh, if_neg hfset, if_pos htempco]
  · rw [Lcd.frame_of_rejected (by rw [decodeFrame_cmd, if_pos hh, hd]), if_neg hfset, if_neg htempco, if_neg hbias,
      if_neg hvop]

/-- Settles O38: one table for each command set. -/
theorem commandByteEffects : Obligations.CommandByteEffects := by
  intro r b hv
  by_cases hh : r.h = false
  · rw [Lcd.frame_cmd_normal_eq hv hh, if_pos hh]
  · rw [Lcd.frame_cmd_extended_eq hv (Bool.eq_true_of_not_eq_false hh), if_neg hh]

/-! ## UNDEF, and what is observed of a trace -/

/-- Vertical addressing sends every frame to UNDEF, with a meaning or without (R213). -/
theorem Lcd.frame_of_vertical {r : LcdRegs} (hv : r.v = true) (m : Mode) (b : Byte) :
    (Lcd.known r).frame m b = .undef := by
  cases hd : decodeFrame r.h (frameBits m b) with
  | ok i => rw [Lcd.frame_of_decodes hd, Lcd.apply_of_vertical (decodeFrame_isHost hd) hv]
  | error e => exact Lcd.frame_of_rejected hd

/-- Observing goes on from where it was (R214). -/
theorem observe_append (es fs : List WireEvent) : observe (es ++ fs) = fs.foldl Lcd.event (observe es) :=
  List.foldl_append

/-- Frames alone do not leave UNDEF (R213). -/
theorem foldl_event_frames_undef (fs : List (Mode × Byte)) :
    (fs.map fun f => WireEvent.frame f.1 f.2).foldl Lcd.event .undef = .undef := by
  induction fs with
  | nil => rfl
  | cons f fs ih => exact ih

/-- Settles O39: an UNDEF and a vertical controller, frames without a reset pulse, and the pulse. -/
theorem undefAbsorbsUntilResetPulse : Obligations.UndefAbsorbsUntilResetPulse :=
  ⟨Lcd.frame_undef, fun _ m b hv => Lcd.frame_of_vertical hv m b, foldl_event_frames_undef, fun _ => rfl⟩

/-- A trace that ends with a block reset leaves UNDEF (R215). -/
theorem observe_trace_blockReset (s : State) : observe s.blockReset.trace = .undef := by
  rw [State.trace, State.blockReset_pending, ← List.append_assoc, observe_append]
  rfl

/-- Settles O17: the block reset's mark gives UNDEF, and the frames after it keep that. -/
theorem blockResetLosesPanel : Obligations.BlockResetLosesPanel := by
  intro s t fs h
  obtain rfl := Host.Outcome.next.inj h
  rw [observe_append, observe_trace_blockReset, foldl_event_frames_undef]

/-- Settles O40, by power and the display mode. -/
theorem visibleByDisplayMode : Obligations.VisibleByDisplayMode := by
  refine ⟨fun _ _ => rfl, fun r x y _ _ => ⟨fun hpd => ?_, fun hpd => ⟨fun hd he => ?_, fun hd he => ?_,
    fun hd hdd => ?_, fun b hdd hd => ⟨fun he => ?_, fun he => ?_⟩⟩⟩⟩
  · simp [Lcd.visible, hpd]
  · simp [Lcd.visible, hpd, hd, he]
  · simp [Lcd.visible, hpd, hd, he]
  · cases he : r.e <;> simp [Lcd.visible, hpd, hd, he, hdd]
  · simp [Lcd.visible, hpd, hd, he, hdd]
  · simp [Lcd.visible, hpd, hd, he, hdd]

/-! ## What the controller takes in a step -/

/-- Settles O9: the step delivers the oldest event of the wire, which is the frame. -/
theorem stepDeliversFrame : Obligations.StepDeliversFrame := by
  intro s m b rest r i hp hl hd
  simp only [step, hp, deliver, hl, hd]

/-- Settles O58: nothing is on the wire. -/
theorem resetObserved : Obligations.ResetObserved := rfl

end Sys2Proof.Machine
end

section
/-! PROOFS. The family 44_wire_commands, what the controller hears: only a step that takes an event of the wire moves the
controller or the part of the trace it has taken (R6, R214). -/

namespace Sys2Proof.Machine

/-- The controller and the part of the trace it has taken: what no move of the block or the host touches (R6). -/
def State.farSide (s : State) : Lcd × List WireEvent := (s.lcd, s.heard)

theorem State.observed_iff (s : State) : s.Observed ↔ s.farSide.1 = observe s.farSide.2 := Iff.rfl

theorem State.begin_farSide (i : Instr) (s : State) : (s.begin i).farSide = s.farSide := by
  unfold State.begin
  split <;> simp [State.farSide]

theorem exec_host_farSide {i : Instr} (hi : i.isHost = true) {s t : State} (h : exec i s = .next t) :
    t.farSide = s.farSide := by
  obtain rfl := Host.Outcome.next.inj ((exec_host hi s).symm.trans h)
  split <;> simp [State.farSide]

theorem accept_farSide {w : Word} {s t : State} (h : accept w s = .next t) : t.farSide = s.farSide := by
  obtain ⟨-, rfl⟩ | ⟨i, -, -, rfl⟩ | ⟨i, hd, -, he⟩ := accept_next h
  · rfl
  · exact s.begin_farSide i
  · exact exec_host_farSide (decodeHost_isHost hd) he

theorem perform_farSide {a : Act} {s t : State} (h : perform a s = .next t) : t.farSide = s.farSide := by
  obtain ⟨-, rfl⟩ | ⟨off, rfl⟩ | ⟨v, -, rfl⟩ | ⟨v, -, ha⟩ | rfl := perform_next h
  · rfl
  · rfl
  · rfl
  · exact accept_farSide ha
  · rfl

theorem advance_farSide {s t : State} (h : advance s = .next t) : t.farSide = s.farSide := by
  obtain ⟨-, rfl⟩ | ⟨i, rest, -, -, hp⟩ | ⟨k, inb, -, rfl⟩ := advance_next h
  · simp [State.farSide]
  · exact perform_farSide (s := { s with inbox := rest }) hp
  · simp [State.farSide]

/-- Settles O57: delivering an event is one more step of observing, and every other move leaves the far side. -/
theorem stepKeepsObserved : Obligations.StepKeepsObserved := by
  intro s t h hstep
  obtain ⟨e, rest, -, hd⟩ | ⟨-, -, ha⟩ | ⟨w, -, -, -, hacc⟩ | ⟨i, rest, -, -, -, -, hp⟩ | ⟨-, -, -, -, rfl⟩ :=
    step_next hstep
  · obtain rfl := Host.Outcome.next.inj ((deliver_eq e _).symm.trans hd)
    have hheard : s.lcd = observe s.heard := h
    change s.lcd.event e = observe (s.heard ++ [e])
    rw [observe_append, hheard]
    rfl
  · rwa [State.observed_iff, advance_farSide ha]
  · rwa [State.observed_iff, accept_farSide (s := { s with held := none }) hacc]
  · rwa [State.observed_iff, perform_farSide (s := { s with inbox := rest }) hp]
  · exact h

end Sys2Proof.Machine
end

section
/-! PROOFS. The family 44_wire_commands, the commands that keep the panel: what each puts on the wire, and that a
controller as INIT leaves it stays so (R121, R127, R181, R205, R206, R216). -/

namespace Sys2Proof.Machine

/-! ## The bytes the block builds, at the controller -/

theorem Lcd.frame_fsetByte {r : LcdRegs} (hv : r.v = false) (pd v h : Bool) :
    (Lcd.known r).frame .cmd (fsetByte pd v h) = .known { r with pd := pd, v := v, h := h } := by
  have hd : decodeFrame r.h (frameBits .cmd (fsetByte pd v h)) = .ok (.fset pd v h) := by
    rw [decodeFrame_cmd, fsetByte_eq_append, decodeNormal_fset, decodeExtended_fset, ite_self]
  rw [Lcd.frame_of_decodes hd, Lcd.apply_fset hv]

theorem Lcd.frame_dctlByte {r : LcdRegs} (hv : r.v = false) (hh : r.h = false) (d e : Bool) :
    (Lcd.known r).frame .cmd (dctlByte d e) = .known { r with d := d, e := e } := by
  rw [dctlByte_eq_append, Lcd.frame_cmd_normal hh (decodeNormal_dctl d e), Lcd.apply_dctl hv hh]

theorem Lcd.frame_biasByte {r : LcdRegs} (hv : r.v = false) (hh : r.h = true) (bs : BitVec 3) :
    (Lcd.known r).frame .cmd (biasByte bs) = .known { r with bs := bs } := by
  rw [biasByte_eq_append, Lcd.frame_cmd_extended hh (decodeExtended_bias bs), Lcd.apply_bias hv hh]

theorem Lcd.frame_vopByte {r : LcdRegs} (hv : r.v = false) (hh : r.h = true) (v : BitVec 7) :
    (Lcd.known r).frame .cmd (vopByte v) = .known { r with vop := v } := by
  rw [vopByte_eq_append, Lcd.frame_cmd_extended hh (decodeExtended_vop v), Lcd.apply_vop hv hh]

theorem Lcd.frame_xAddrByte {r : LcdRegs} (hv : r.v = false) (hh : r.h = false) {col : BitVec 7}
    (hcol : col.toNat < 84) : (Lcd.known r).frame .cmd (xAddrByte col) = .known { r with x := col.toNat } := by
  rw [xAddrByte_eq_append, Lcd.frame_cmd_normal hh (decodeNormal_xaddr col), Lcd.apply_xaddr hv hh, if_pos hcol]

theorem Lcd.frame_yAddrByte {r : LcdRegs} (hv : r.v = false) (hh : r.h = false) {bank : BitVec 3}
    (hbank : bank.toNat < 6) : (Lcd.known r).frame .cmd (yAddrByte bank) = .known { r with y := bank.toNat } := by
  rw [yAddrByte_eq_append, Lcd.frame_cmd_normal hh (decodeNormal_yaddr bank), Lcd.apply_yaddr hv hh, if_pos hbank]

/-! ## A controller as INIT leaves it -/

theorem LcdRegs.ready_iff (r : LcdRegs) :
    r.ready = true ↔ r.h = false ∧ r.v = false ∧ r.pd = false ∧ r.d = true ∧ r.e = false := by
  simp [LcdRegs.ready, and_assoc]

theorem Lcd.ready_iff (l : Lcd) : l.ready = true ↔ ∃ r, l = .known r ∧ r.ready = true ∧ r.x < 84 ∧ r.y < 6 := by
  cases l <;> simp [Lcd.ready, and_assoc]

/-- An event of the wire that keeps every controller as INIT leaves it. -/
def WireEvent.KeepsReady (e : WireEvent) : Prop := ∀ l : Lcd, l.ready = true → (l.event e).ready = true

/-- The auto-increment stays in range (R211). -/
theorem keepsReady_data (d : Byte) : (WireEvent.frame .data d).KeepsReady := by
  intro l hl
  obtain ⟨r, rfl, hr, hx, hy⟩ := l.ready_iff.mp hl
  obtain ⟨-, hv, -⟩ := r.ready_iff.mp hr
  rw [Lcd.event, Lcd.frame_data hv, LcdRegs.advance_eq]
  refine (Lcd.ready_iff _).mpr ⟨_, rfl, hr, ?_, ?_⟩
  · dsimp only
    split <;> omega
  · dsimp only
    split_ifs <;> omega

theorem keepsReady_xAddrByte {col : BitVec 7} (hcol : col.toNat < 84) :
    (WireEvent.frame .cmd (xAddrByte col)).KeepsReady := by
  intro l hl
  obtain ⟨r, rfl, hr, -, hy⟩ := l.ready_iff.mp hl
  obtain ⟨hh, hv, -⟩ := r.ready_iff.mp hr
  rw [Lcd.event, Lcd.frame_xAddrByte hv hh hcol]
  exact (Lcd.ready_iff _).mpr ⟨_, rfl, hr, hcol, hy⟩

theorem keepsReady_yAddrByte {bank : BitVec 3} (hbank : bank.toNat < 6) :
    (WireEvent.frame .cmd (yAddrByte bank)).KeepsReady := by
  intro l hl
  obtain ⟨r, rfl, hr, hx, -⟩ := l.ready_iff.mp hl
  obtain ⟨hh, hv, -⟩ := r.ready_iff.mp hr
  rw [Lcd.event, Lcd.frame_yAddrByte hv hh hbank]
  exact (Lcd.ready_iff _).mpr ⟨_, rfl, hr, hx, hbank⟩

theorem foldl_event_ready {es : List WireEvent} (hes : ∀ e ∈ es, e.KeepsReady) {l : Lcd} (hl : l.ready = true) :
    (es.foldl Lcd.event l).ready = true :=
  List.foldlRecOn (motive := fun l : Lcd => l.ready = true) es _ hl fun l hl e he => hes e he l hl

/-! ## What a command puts on the wire -/

/-- The events an action of a command's body puts on the wire. -/
def Action.events : Action → List WireEvent
  | .op _ => []
  | .emit m b => [.frame m b]
  | .resetPulse => [.resetPulse]

theorem Action.trace_run {stores : Bool} {a : Action} (ha : a.inBody stores = true) (s : State) :
    (a.run s).trace = s.trace ++ a.events := by
  cases a with
  | op m =>
    cases m
    case seqAt | store => exact (List.append_nil _).symm
    all_goals cases ha
  | emit m b => exact (List.append_assoc _ _ _).symm
  | resetPulse => exact (List.append_assoc _ _ _).symm

theorem trace_runActions_body {stores : Bool} {as : List Action} (has : ∀ a ∈ as, a.inBody stores = true) (s : State) :
    (runActions as s).trace = s.trace ++ as.flatMap Action.events := by
  induction as generalizing s with
  | nil => exact (List.append_nil _).symm
  | cons a as ih =>
    rw [runActions_cons, ih (fun a' h' => has a' (List.mem_cons_of_mem a h')),
      Action.trace_run (has a List.mem_cons_self), List.append_assoc, List.flatMap_cons]

/-- The events a host command puts on the wire. -/
def commandEvents (i : Instr) (s : State) : List WireEvent := (commandBody i s).flatMap Action.events

theorem trace_runActions_scriptOf {i : Instr} (hi : i.isHost = true) (s : State) :
    (runActions (scriptOf i s) s).trace = s.trace ++ commandEvents i s := by
  rw [(pins_and_trace_runActions_scriptOf hi s).2, trace_runActions_body fun _ => mem_commandBody]
  rfl

/-- The frames of INIT leave the record of R216, whatever the controller was (R121, R202). -/
theorem foldl_event_init (c : Byte) (s : State) (l : Lcd) : (commandEvents (.init c) s).foldl Lcd.event l =
    .known { LcdRegs.afterReset with
      pd := false, d := true, bs := s.par.bias, vop := contrast7 s.par.contrastMode c } := by
  have hevents : commandEvents (.init c) s =
      [.resetPulse, .frame .cmd (fsetByte false false true), .frame .cmd (biasByte s.par.bias),
        .frame .cmd (vopByte (contrast7 s.par.contrastMode c)), .frame .cmd (fsetByte false false false),
        .frame .cmd (dctlByte true false)] := rfl
  simp only [hevents, List.foldl_cons, List.foldl_nil, Lcd.event]
  rw [Lcd.frame_fsetByte rfl, Lcd.frame_biasByte rfl rfl, Lcd.frame_vopByte rfl rfl, Lcd.frame_fsetByte rfl,
    Lcd.frame_dctlByte rfl rfl]
  rfl

/-- A panel-keeping command other than INIT puts on the wire data frames and addresses in range alone. -/
theorem keepsReady_of_mem_commandEvents {i : Instr} (hk : keepsPanel i = true) (hi : clearsInit i = false) {s : State}
    {e : WireEvent} (he : e ∈ commandEvents i s) : e.KeepsReady := by
  obtain ⟨a, ha, hea⟩ := List.mem_flatMap.mp he
  cases i
  case init => cases hi
  case setaddr col bank =>
    simp only [keepsPanel, Bool.and_eq_true, decide_eq_true_eq] at hk
    obtain ⟨hcol, hbank⟩ := hk
    simp only [commandBody, List.mem_cons, List.not_mem_nil, or_false] at ha
    obtain rfl | rfl := ha
    · exact List.mem_singleton.mp hea ▸ keepsReady_xAddrByte hcol
    · exact List.mem_singleton.mp hea ▸ keepsReady_yAddrByte hbank
  case write v =>
    obtain rfl := List.mem_singleton.mp ha
    exact List.mem_singleton.mp hea ▸ keepsReady_data v
  case flush =>
    simp only [commandBody, flushWalk, flushColumn, List.mem_cons, List.mem_append, List.mem_flatMap, List.not_mem_nil,
      or_false] at ha
    obtain rfl | rfl | ⟨bank, -, col, -, rfl | rfl⟩ | rfl := ha
    · exact List.mem_singleton.mp hea ▸ keepsReady_xAddrByte (by decide)
    · exact List.mem_singleton.mp hea ▸ keepsReady_yAddrByte (by decide)
    · cases hea
    · exact List.mem_singleton.mp hea ▸ keepsReady_data _
    · cases hea
  case clear =>
    obtain ⟨k, -, rfl⟩ := List.mem_map.mp ha
    cases hea
  case setpx c x y =>
    simp only [commandBody] at ha
    split at ha
    · obtain rfl := List.mem_singleton.mp ha
      cases hea
    · cases ha
  case getpx => cases ha
  all_goals cases hk

/-- A panel-keeping command that the block accepts leaves the controller as INIT does: INIT from any controller, the
others from one that was so (R216). -/
theorem ready_runActions_scriptOf {i : Instr} {s : State} (hk : keepsPanel i = true) (ha : accepts i s = true)
    (h : clearsInit i = false → (observe s.trace).ready = true) :
    (observe (runActions (scriptOf i s) s).trace).ready = true := by
  rw [trace_runActions_scriptOf (isHost_of_accepts ha), observe_append]
  cases hc : clearsInit i with
  | false =>
    exact foldl_event_ready (fun e he => keepsReady_of_mem_commandEvents hk hc he) (h hc)
  | true =>
    cases i
    case init c =>
      rw [foldl_event_init]
      rfl
    all_goals cases hc

end Sys2Proof.Machine
end

section
/-! PROOFS. The family 44_wire_commands, the panel invariant: every operation of the machine keeps it, while no write
disturbs the panel (R215, R216, R281, R283). -/

namespace Sys2Proof.Machine

/-! ## What the panel's readiness depends on -/

/-- STATUS.INIT and the wire trace: with the rest of the running command, all that the panel's readiness depends on. -/
def State.panelView (s : State) : Bool × List WireEvent := (s.status.init, s.trace)

theorem State.panelView_eq_iff {s t : State} :
    t.panelView = s.panelView ↔ t.status.init = s.status.init ∧ t.trace = s.trace := by
  simp [State.panelView]

/-- With STATUS.INIT = 1 the wire leaves the controller as INIT does (R216). -/
def State.WireReady (s : State) : Prop := s.status.init = true → (observe s.trace).ready = true

theorem State.WireReady.congr {s t : State} (h : s.WireReady) (hv : t.panelView = s.panelView) : t.WireReady := by
  obtain ⟨hinit, htrace⟩ := State.panelView_eq_iff.mp hv
  unfold State.WireReady
  rwa [hinit, htrace]

/-- A micro-step changes the panel view by the panel view alone. -/
theorem Micro.run_panelView (m : Micro) {s t : State} (h : t.panelView = s.panelView) :
    (m.run t).panelView = (m.run s).panelView := by
  rw [State.panelView_eq_iff] at h ⊢
  obtain ⟨hinit, htrace⟩ := h
  simp only [State.trace] at htrace ⊢
  cases m
  case done f => cases f <;> simp [Micro.run, hinit, htrace]
  case frameEnd | pulseEnd => simp only [Micro.run, hinit, ← List.append_assoc, htrace, and_self]
  all_goals simp [Micro.run, hinit, htrace]

theorem runMicros_panelView (ms : List Micro) {s t : State} (h : t.panelView = s.panelView) :
    (runMicros ms t).panelView = (runMicros ms s).panelView := by
  induction ms generalizing s t with
  | nil => exact h
  | cons m ms ih => exact ih (Micro.run_panelView m h)

/-- Carrying the command out to its end looks at nothing of the block but what is left of it. -/
theorem State.finished_panelView {s t : State} (hv : t.panelView = s.panelView) (ht : t.todo = s.todo) :
    t.finished.panelView = s.finished.panelView := by
  simp only [State.finished, ht]
  exact runMicros_panelView s.todo hv

/-! ## Every operation keeps the panel ready -/

/-- The same block and wire, with other writes held or to come, if those keep the panel too. -/
theorem State.PanelReady.congr {s t : State} (h : s.PanelReady)
    (hinbox : t.inbox.all (fun i => i.act.keepsPanel) = true) (hheld : ∀ w, t.held = some w → keepsPanelWord w = true)
    (hv : t.panelView = s.panelView) (ht : t.todo = s.todo) : t.PanelReady :=
  ⟨hinbox, hheld, State.WireReady.congr h.ready (State.finished_panelView hv ht)⟩

theorem State.raiseFault_panelReady {s : State} (h : s.PanelReady) (c : Cause) : (s.raiseFault c).PanelReady :=
  h.congr h.inbox h.held rfl rfl

/-- A block reset clears STATUS.INIT, so nothing is claimed after it (R215). -/
theorem State.blockReset_panelReady {s : State} (h : s.PanelReady) : s.blockReset.PanelReady :=
  ⟨h.inbox, nofun, nofun⟩

/-- A panel-keeping command that an idle block with a ready panel accepts leaves the panel ready. -/
theorem State.PanelReady.ready_runActions {i : Instr} {s : State} (h : s.PanelReady) (ht : s.todo = [])
    (hk : keepsPanel i = true) (ha : accepts i s = true) :
    (observe (runActions (scriptOf i s) s).trace).ready = true := by
  have hready := h.ready
  rw [State.finished_of_todo_nil ht] at hready
  exact ready_runActions_scriptOf hk ha fun hc => hready (init_of_accepts ha hc)

theorem State.begin_panelReady {i : Instr} {s : State} (hk : keepsPanel i = true) (ht : s.todo = [])
    (h : s.PanelReady) : (s.begin i).PanelReady := by
  cases ha : accepts i s with
  | false => exact State.begin_of_not_accepts ha ▸ State.raiseFault_panelReady h _
  | true =>
    have hready := h.ready_runActions ht hk ha
    obtain ⟨ms, f, -, hbegin⟩ := State.begin_of_accepts ha
    refine ⟨by rw [hbegin]; exact h.inbox, by rw [hbegin]; exact h.held, fun _ => ?_⟩
    rw [State.finished, runMicros_todo_begin ha]
    exact hready

theorem exec_panelReady {i : Instr} {s t : State} (hi : i.isHost = true) (hk : keepsPanel i = true) (htodo : s.todo = [])
    (h : s.PanelReady) (ht : exec i s = .next t) : t.PanelReady := by
  obtain rfl := Host.Outcome.next.inj ((exec_host hi s).symm.trans ht)
  split
  next ha =>
    have hready := h.ready_runActions htodo hk ha
    refine ⟨by rw [runActions_inbox]; exact h.inbox, by rw [runActions_held]; exact h.held, fun _ => ?_⟩
    rwa [State.finished_of_todo_nil ((runActions_todo _ _).trans htodo)]
  next => exact State.raiseFault_panelReady h _

theorem keepsPanel_of_word {w : Word} {i : Instr} (hd : decodeHost w = .ok i) (hw : keepsPanelWord w = true) :
    keepsPanel i = true := by
  simpa only [keepsPanelWord, hd] using hw

theorem accept_panelReady {w : Word} {s t : State} (hw : keepsPanelWord w = true) (htodo : s.todo = [])
    (h : s.PanelReady) (ht : accept w s = .next t) : t.PanelReady := by
  obtain ⟨-, rfl⟩ | ⟨i, hd, -, rfl⟩ | ⟨i, hd, -, he⟩ := accept_next ht
  · exact State.raiseFault_panelReady h _
  · exact State.begin_panelReady (keepsPanel_of_word hd hw) htodo h
  · exact exec_panelReady (decodeHost_isHost hd) (keepsPanel_of_word hd hw) htodo h he

/-- A host read only answers. -/
theorem perform_read_next {addr bits : Nat} {s t : State} (h : perform (.access (.read addr bits)) s = .next t) :
    ∃ v, t = { s with replies := s.replies ++ [v] } := by
  simp only [perform] at h
  split at h
  · cases h
  · exact ⟨_, (Host.Outcome.next.inj h).symm⟩

/-- A host write holds its own word, has it accepted, or is ignored. -/
theorem perform_write_next {addr bits : Nat} {v : Word} {s t : State}
    (h : perform (.access (.write addr bits v)) s = .next t) :
    t = { s with held := some v } ∨ (s.status.busy = false ∧ accept v s = .next t) ∨ t = s := by
  simp only [perform, State.writeReg] at h
  split at h
  · cases h
  · split_ifs at h with hoff hb
    · exact .inl (Host.Outcome.next.inj h).symm
    · exact .inr (.inl ⟨Bool.eq_false_of_not_eq_true hb, h⟩)
    · exact .inr (.inr (Host.Outcome.next.inj h).symm)

theorem perform_panelReady {a : Act} {s t : State} (ha : a.keepsPanel = true) (hb : s.BusyTrue) (h : s.PanelReady)
    (ht : perform a s = .next t) : t.PanelReady := by
  cases a with
  | blockReset => exact Host.Outcome.next.inj ht ▸ State.blockReset_panelReady h
  | access acc =>
    cases acc with
    | read addr bits =>
      obtain ⟨v, rfl⟩ := perform_read_next ht
      exact h.congr h.inbox h.held rfl rfl
    | write addr bits v =>
      obtain rfl | ⟨hidle, hacc⟩ | rfl := perform_write_next ht
      · refine h.congr h.inbox (fun w hw => ?_) rfl rfl
        exact Option.some.inj hw ▸ ha
      · exact accept_panelReady ha (hb.idle hidle).todo h hacc
      · exact h

/-- What falls inside a command is the next action of the outside. -/
theorem State.inbox_of_interruptAt {s : State} {k : Nat} (h : s.interruptAt = some k) :
    ∃ j rest, s.inbox = j :: rest := by
  cases hin : s.inbox with
  | nil => simp [State.interruptAt, hin] at h
  | cons j rest => exact ⟨j, rest, rfl⟩

/-- The outside's next action and those after it. -/
theorem State.PanelReady.inbox_cons {s : State} (h : s.PanelReady) {j : Input} {rest : List Input}
    (hin : s.inbox = j :: rest) :
    j.act.keepsPanel = true ∧ rest.all (fun i => i.act.keepsPanel) = true := by
  have hall := h.inbox
  rwa [hin, List.all_cons, Bool.and_eq_true] at hall

/-- Taking the outside's next action from the inbox. -/
theorem State.PanelReady.tail {s : State} (h : s.PanelReady) {j : Input} {rest : List Input}
    (hin : s.inbox = j :: rest) : ({ s with inbox := rest } : State).PanelReady :=
  h.congr (h.inbox_cons hin).2 h.held rfl rfl

/-- A cut into a running command leaves what the panel is once the command is done. -/
theorem panelReady_of_cut {s : State} (h : s.PanelReady) (n : Nat) {inb : List Input}
    (hinb : inb.all (fun i => i.act.keepsPanel) = true) :
    ({ runMicros (s.todo.take n) s with todo := s.todo.drop n, inbox := inb } : State).PanelReady := by
  refine ⟨hinb, by rw [runMicros_held]; exact h.held, State.WireReady.congr h.ready ?_⟩
  have hview : (runMicros (s.todo.drop n)
      { runMicros (s.todo.take n) s with todo := s.todo.drop n, inbox := inb }).panelView =
        (runMicros (s.todo.drop n) (runMicros (s.todo.take n) s)).panelView :=
    runMicros_panelView _ rfl
  rw [runMicros_drop] at hview
  exact hview

theorem advance_panelReady {s t : State} (hb : s.BusyTrue) (hbusy : s.status.busy = true) (h : s.PanelReady)
    (ht : advance s = .next t) : t.PanelReady := by
  have htodo : s.todo ≠ [] := by
    obtain ⟨hidle, -⟩ | ⟨-, htodo, -⟩ := hb
    · exact absurd (hidle.symm.trans hbusy) Bool.false_ne_true
    · exact htodo
  cases hint : s.interruptAt with
  | none =>
    obtain rfl := Host.Outcome.next.inj ((advance_to_end htodo hint).symm.trans ht)
    have hend := panelReady_of_cut h s.todo.length h.inbox
    rw [List.take_length, List.drop_length] at hend
    exact hend.congr (by rw [runMicros_inbox]; exact h.inbox) hend.held rfl rfl
  | some k =>
    obtain ⟨j, rest, hin⟩ := State.inbox_of_interruptAt hint
    obtain ⟨hj, hrest⟩ := h.inbox_cons hin
    cases k with
    | zero =>
      rw [advance_at_interruption htodo hint hin] at ht
      exact perform_panelReady (s := { s with inbox := rest }) hj (hb.congr rfl rfl) (h.tail hin) ht
    | succ k =>
      obtain rfl := Host.Outcome.next.inj ((advance_to_interruption htodo hint hin).symm.trans ht)
      refine panelReady_of_cut h (k + 1) ?_
      rw [List.all_cons, Bool.and_eq_true]
      exact ⟨hj, hrest⟩

/-- Settles O55, by who moves in the step: delivering an event keeps the whole trace, and each other move keeps what the
trace says of the panel once the running command is done. -/
theorem stepKeepsPanelReady : Obligations.StepKeepsPanelReady := by
  intro s t hb h hstep
  obtain ⟨e, rest, hp, hd⟩ | ⟨-, hbusy, ha⟩ | ⟨w, -, hidle, hheld, hacc⟩ | ⟨i, rest, -, -, -, hin, hp⟩ |
    ⟨-, -, -, -, rfl⟩ := step_next hstep
  · obtain ⟨l, rfl⟩ := deliver_next hd
    refine h.congr h.inbox h.held (State.panelView_eq_iff.mpr ⟨rfl, ?_⟩) rfl
    simp [State.trace, hp]
  · exact advance_panelReady hb hbusy h ha
  · exact accept_panelReady (s := { s with held := none }) (h.held w hheld) (hb.idle hidle).todo
      (h.congr h.inbox nofun rfl rfl) hacc
  · exact perform_panelReady (s := { s with inbox := rest }) (h.inbox_cons hin).1 (hb.congr rfl rfl) (h.tail hin) hp
  · exact h

end Sys2Proof.Machine
end

section
/-! PROOFS. The family 44_wire_commands, the round trip of FLUSH: after INIT and panel-keeping commands the display memory
is the framebuffer and the visible pixels are its pixels (R181, R210 to R212, R216). -/

namespace Sys2Proof.Machine

/-! ## The walk at the controller -/

/-- The memory after the bytes of `f` are written at the addresses below `n`, in order. -/
def Memory.load (m : Memory) (f : Nat → Byte) (n : Nat) : Memory :=
  (List.range n).foldl (fun m k => m.write k (f k)) m

theorem Memory.load_succ (m : Memory) (f : Nat → Byte) (n : Nat) : m.load f (n + 1) = (m.load f n).write n (f n) := by
  rw [Memory.load, List.range_succ, List.foldl_append]
  rfl

theorem Memory.read_load (m : Memory) (f : Nat → Byte) {n k : Nat} (hk : k < n) : (m.load f n).read k = some (f k) := by
  induction n with
  | zero => cases hk
  | succ n ih =>
    rw [Memory.load_succ, Memory.read_write]
    split_ifs with hkn
    · rw [hkn]
    · exact ih (by omega)

/-- The record once `n` data frames have filled the display memory from the pointer (0, 0) on. -/
def LcdRegs.loaded (r : LcdRegs) (f : Nat → Byte) (n : Nat) : LcdRegs :=
  { r with x := n % 84, y := n / 84 % 6, ddram := r.ddram.load f n }

theorem LcdRegs.read_loaded (r : LcdRegs) (f : Nat → Byte) {n k : Nat} (hk : k < n) :
    (r.loaded f n).ddram.read k = some (f k) :=
  Memory.read_load r.ddram f hk

/-- The pointer walks as the index does (R211). -/
theorem LcdRegs.advance_of_index {r : LcdRegs} {n : Nat} (hx : r.x = n % 84) (hy : r.y = n / 84 % 6) :
    r.advance = { r with x := (n + 1) % 84, y := (n + 1) / 84 % 6 } := by
  have hx' : (if r.x = 83 then 0 else r.x + 1) = (n + 1) % 84 := by
    split_ifs <;> omega
  have hy' : (if r.x = 83 then (if r.y = 5 then 0 else r.y + 1) else r.y) = (n + 1) / 84 % 6 := by
    split_ifs <;> omega
  rw [LcdRegs.advance_eq, hx', hy']

/-- One more data frame goes to the next address (R210). -/
theorem Lcd.frame_data_loaded {r : LcdRegs} (hv : r.v = false) (f : Nat → Byte) {n : Nat} (hn : n < 504) :
    (Lcd.known (r.loaded f n)).frame .data (f n) = .known (r.loaded f (n + 1)) := by
  have haddr : fbIndex (n / 84 % 6) (n % 84) = n := by
    unfold fbIndex
    omega
  rw [Lcd.frame_data (r := r.loaded f n) hv, LcdRegs.advance_of_index (n := n) rfl rfl]
  simp only [LcdRegs.loaded, haddr, Memory.load_succ]

/-- Data frames from the pointer (0, 0) on fill the display memory in index order (R210, R211). -/
theorem foldl_event_dataFrames {r : LcdRegs} (hv : r.v = false) (f : Nat → Byte) {n : Nat} (hn : n ≤ 504) :
    ((List.range n).map fun k => WireEvent.frame .data (f k)).foldl Lcd.event (.known (r.loaded f 0)) =
      .known (r.loaded f n) := by
  induction n with
  | zero => rfl
  | succ n ih =>
    rw [List.range_succ, List.map_append, List.foldl_append, ih (by omega)]
    exact Lcd.frame_data_loaded hv f (by omega)

/-- A FLUSH at a controller as INIT leaves it fills the display memory with the framebuffer (R181). -/
theorem foldl_event_flushEvents (s : State) {r : LcdRegs} (hr : r.ready = true) :
    s.flushEvents.foldl Lcd.event (.known r) = .known (r.loaded s.fbRead 504) := by
  obtain ⟨hh, hv, -⟩ := r.ready_iff.mp hr
  have hx : (Lcd.known r).event (.frame .cmd 0x80#8) = .known { r with x := 0 } :=
    Lcd.frame_xAddrByte (col := 0#7) hv hh (by decide)
  have hy : (Lcd.known { r with x := 0 }).event (.frame .cmd 0x40#8) = .known (r.loaded s.fbRead 0) :=
    Lcd.frame_yAddrByte (r := { r with x := 0 }) (bank := 0#3) hv hh (by decide)
  rw [State.flushEvents, List.foldl_cons, List.foldl_cons, hx, hy]
  exact foldl_event_dataFrames hv s.fbRead le_rfl

/-- A controller as INIT leaves it shows the bits of its display memory (R212). -/
theorem Lcd.visible_of_ready {r : LcdRegs} (hr : r.ready = true) (x y : Nat) :
    (Lcd.known r).visible x y = (r.dd (y / 8) x).map (·.getLsbD (y % 8)) := by
  obtain ⟨-, -, hpd, hd, he⟩ := r.ready_iff.mp hr
  simp [Lcd.visible, hpd, hd, he]

/-! ## The commands before the FLUSH -/

/-- An initialised block whose wire leaves the controller as INIT does (R216). -/
def State.PanelUp (s : State) : Prop := s.status.init = true ∧ (observe s.trace).ready = true

theorem isHost_of_keepsPanel {i : Instr} (hk : keepsPanel i = true) : i.isHost = true := by
  cases i
  case send | fset | dctl | yaddr | xaddr | tempco | bias | vop | data => cases hk
  all_goals rfl

/-- An accepted command that keeps the panel brings it up: INIT from any state, the others where it was up (R216). -/
theorem exec_panelUp {i : Instr} {s : State} (hk : keepsPanel i = true) (ha : accepts i s = true)
    (h : clearsInit i = false → (observe s.trace).ready = true) : ∃ t, exec i s = .next t ∧ t.PanelUp :=
  ⟨_, by rw [exec_host (isHost_of_accepts ha), if_pos ha], init_runActions_scriptOf ha,
    ready_runActions_scriptOf hk ha h⟩

theorem execAll_cons {i : Instr} {s t : State} (h : exec i s = .next t) (is : List Instr) :
    execAll (i :: is) s = execAll is t := by
  simp only [execAll, h]

theorem execAll_append {is : List Instr} {s t : State} (h : execAll is s = .next t) (js : List Instr) :
    execAll (is ++ js) s = execAll js t := by
  induction is generalizing s with
  | nil => rw [List.nil_append, Host.Outcome.next.inj h]
  | cons i is ih =>
    obtain ⟨u, hu⟩ := exec_next i s
    rw [execAll_cons hu] at h
    rw [List.cons_append, execAll_cons hu, ih h]

/-- Commands that keep the panel, one after another, all complete and leave it up (R216). -/
theorem execAll_panelUp {is : List Instr} {s : State} (hk : ∀ i ∈ is, keepsPanel i = true) (h : s.PanelUp) :
    ∃ t, execAll is s = .next t ∧ t.PanelUp := by
  induction is generalizing s with
  | nil => exact ⟨s, rfl, h⟩
  | cons i is ih =>
    obtain ⟨hinit, hready⟩ := h
    have hi := hk i List.mem_cons_self
    obtain ⟨t, ht, htup⟩ := exec_panelUp hi (accepts_of_init (isHost_of_keepsPanel hi) hinit) fun _ => hready
    obtain ⟨u, hu, huup⟩ := ih (fun j hj => hk j (List.mem_cons_of_mem i hj)) htup
    exact ⟨u, by rw [execAll_cons ht, hu], huup⟩

/-- What the wire leaves of the controller after a FLUSH on a panel that is up (R181, R216). -/
theorem observe_afterFlush {s : State} (h : s.PanelUp) : ∃ r : LcdRegs, r.ready = true ∧
    observe s.afterFlush.trace = .known (r.loaded s.fbRead 504) := by
  obtain ⟨r, hr, hready, -, -⟩ := (Lcd.ready_iff _).mp h.2
  refine ⟨r, hready, ?_⟩
  rw [State.trace_afterFlush, observe_append, hr, foldl_event_flushEvents s hready]

/-- Settles O41: INIT brings the panel up, the commands leave it up, and the walk of the FLUSH fills the display memory
with the framebuffer, whose bits a controller as INIT leaves it shows. -/
theorem flushRoundTrip : Obligations.FlushRoundTrip := by
  intro s c is hk
  obtain ⟨s₁, h₁, hup₁⟩ := exec_panelUp (i := .init c) (s := s) rfl rfl nofun
  obtain ⟨s₂, h₂, hup₂⟩ := execAll_panelUp (List.all_eq_true.mp hk) hup₁
  obtain ⟨r, hready, hr⟩ := observe_afterFlush hup₂
  refine ⟨s₂.afterFlush, r.loaded s₂.fbRead 504, ?_, hr, fun k hk => ?_, rfl, rfl, fun x y hx hy => ?_⟩
  · rw [execAll_cons h₁, execAll_append h₂, execAll_cons (exec_flush hup₂.1)]
    rfl
  · rw [LcdRegs.dd, fbIndex, Nat.div_add_mod', LcdRegs.read_loaded r _ hk, State.fbRead_afterFlush]
  · have hlt : fbIndex (y / 8) x < 504 := fbIndex_lt (by omega) hx
    rw [hr, Lcd.visible_of_ready (r := r.loaded s₂.fbRead 504) hready, LcdRegs.dd, LcdRegs.read_loaded r _ hlt]
    rfl

end Sys2Proof.Machine
end

section
/-! PROOFS. The family 60_exceptions: what the block answers before INIT, and that only a block reset takes a recorded
fault back (R240, R241, R242). -/

namespace Sys2Proof.Machine

/-! ## Before INIT -/

theorem clearsInit_eq_false {i : Instr} (h : ∀ c, i ≠ .init c) : clearsInit i = false := by
  cases i
  case init c => exact absurd rfl (h c)
  all_goals rfl

/-- With STATUS.INIT = 0 the block accepts nothing but INIT (R241). -/
theorem not_accepts_of_uninitialised {i : Instr} {s : State} (h : ∀ c, i ≠ .init c) (hinit : s.status.init = false) :
    accepts i s = false :=
  Bool.eq_false_of_not_eq_true fun ha =>
    Bool.false_ne_true (hinit.symm.trans (init_of_accepts ha (clearsInit_eq_false h)))

/-- Settles O28: the block does not accept the command, so it records the fault in place of the command's script. -/
theorem uninitialisedCommandFaultsOnly : Obligations.UninitialisedCommandFaultsOnly := by
  intro s i hi hne hinit
  rw [exec_host hi, not_accepts_of_uninitialised hne hinit]
  rfl

/-! ## What a move without a block reset keeps of a recorded fault -/

/-- From `s` to `t` no block reset was taken, FAULT was not cleared, and a recorded cause did not change (R242). -/
structure State.KeepsFault (s t : State) : Prop where
  draw : t.draw = s.draw
  fault : s.status.fault = true → t.status.fault = true
  cause : s.status.cause ≠ 0#4 → t.status.cause = s.status.cause

/-- A move that leaves FAULT and CAUSE alone keeps them. -/
theorem State.KeepsFault.of_eq {s t : State} (hdraw : t.draw = s.draw) (hfault : t.status.fault = s.status.fault)
    (hcause : t.status.cause = s.status.cause) : s.KeepsFault t :=
  ⟨hdraw, hfault.trans, fun _ => hcause⟩

theorem State.KeepsFault.trans {s t u : State} (hst : s.KeepsFault t) (htu : t.KeepsFault u) : s.KeepsFault u :=
  ⟨htu.draw.trans hst.draw, fun hf => htu.fault (hst.fault hf),
    fun hc => (htu.cause (hst.cause hc ▸ hc)).trans (hst.cause hc)⟩

/-- A further fault keeps the cause of the first (R242). -/
theorem State.raiseFault_keepsFault (c : Cause) (s : State) : s.KeepsFault (s.raiseFault c) :=
  ⟨rfl, fun _ => rfl, fun hc => if_neg hc⟩

theorem runMicros_keepsFault (ms : List Micro) (s : State) : s.KeepsFault (runMicros ms s) :=
  have ⟨hfault, hcause⟩ := runMicros_fault ms s
  .of_eq (runMicros_draw ms s) hfault hcause

theorem State.begin_keepsFault (i : Instr) (s : State) : s.KeepsFault (s.begin i) := by
  unfold State.begin
  split
  · exact (runMicros_keepsFault _ s).trans (.of_eq rfl rfl rfl)
  · exact s.raiseFault_keepsFault _

theorem exec_host_keepsFault {i : Instr} (hi : i.isHost = true) {s t : State} (h : exec i s = .next t) :
    s.KeepsFault t := by
  obtain rfl := Host.Outcome.next.inj ((exec_host hi s).symm.trans h)
  split
  · rw [← microsRefineTransactions]
    exact runMicros_keepsFault _ s
  · exact s.raiseFault_keepsFault _

theorem accept_keepsFault {w : Word} {s t : State} (h : accept w s = .next t) : s.KeepsFault t := by
  obtain ⟨-, rfl⟩ | ⟨i, -, -, rfl⟩ | ⟨i, hd, -, he⟩ := accept_next h
  · exact s.raiseFault_keepsFault _
  · exact s.begin_keepsFault i
  · exact exec_host_keepsFault (decodeHost_isHost hd) he

/-! ## Only a block reset takes a recorded fault back -/

/-- An outside action keeps a recorded fault unless it is the block reset. -/
theorem perform_keepsFault_or_blockReset {a : Act} {s t : State} (h : perform a s = .next t) :
    s.KeepsFault t ∨ a = .blockReset ∧ t = s.blockReset := by
  obtain hreset | ⟨off, rfl⟩ | ⟨v, -, rfl⟩ | ⟨v, -, hacc⟩ | rfl := perform_next h
  · exact .inr hreset
  · exact .inl (.of_eq rfl rfl rfl)
  · exact .inl (.of_eq rfl rfl rfl)
  · exact .inl (accept_keepsFault hacc)
  · exact .inl (.of_eq rfl rfl rfl)

/-- The outside's next action is a block reset, and `t` is the state after it (R270). -/
def State.TakesBlockReset (s t : State) : Prop :=
  ∃ a rest, s.inbox = ⟨a, .blockReset⟩ :: rest ∧ t = ({ s with inbox := rest } : State).blockReset

theorem State.TakesBlockReset.draw {s t : State} (h : s.TakesBlockReset t) : t.draw = s.draw + 1 := by
  obtain ⟨a, rest, -, rfl⟩ := h
  rfl

/-- The outside's next action keeps a recorded fault unless it is a block reset. -/
theorem perform_head_keepsFault_or_blockReset {s t : State} {i : Input} {rest : List Input} (hin : s.inbox = i :: rest)
    (h : perform i.act { s with inbox := rest } = .next t) : s.KeepsFault t ∨ s.TakesBlockReset t := by
  obtain hkeeps | ⟨hact, rfl⟩ := perform_keepsFault_or_blockReset h
  · have htail : s.KeepsFault { s with inbox := rest } := .of_eq rfl rfl rfl
    exact .inl (htail.trans hkeeps)
  · exact .inr ⟨i.arrival, rest, by rw [hin, ← hact], rfl⟩

theorem advance_keepsFault_or_blockReset {s t : State} (h : advance s = .next t) : s.KeepsFault t ∨ s.TakesBlockReset t := by
  obtain ⟨-, rfl⟩ | ⟨i, rest, -, hin, hp⟩ | ⟨k, inb, -, rfl⟩ := advance_next h
  · exact .inl ((runMicros_keepsFault _ s).trans (.of_eq rfl rfl rfl))
  · exact perform_head_keepsFault_or_blockReset hin hp
  · exact .inl ((runMicros_keepsFault _ s).trans (.of_eq rfl rfl rfl))

/-- One step keeps a recorded fault unless it takes a block reset (R242). -/
theorem step_keepsFault_or_blockReset {s t : State} (h : step s = .next t) : s.KeepsFault t ∨ s.TakesBlockReset t := by
  obtain ⟨e, rest, -, hd⟩ | ⟨-, -, ha⟩ | ⟨w, -, -, -, hacc⟩ | ⟨i, rest, -, -, -, hin, hp⟩ | ⟨-, -, -, -, rfl⟩ :=
    step_next h
  · obtain ⟨l, rfl⟩ := deliver_next hd
    exact .inl (.of_eq rfl rfl rfl)
  · exact advance_keepsFault_or_blockReset ha
  · have htaken : s.KeepsFault { s with held := none } := .of_eq rfl rfl rfl
    exact .inl (htaken.trans (accept_keepsFault hacc))
  · exact perform_head_keepsFault_or_blockReset hin hp
  · exact .inl (.of_eq rfl rfl rfl)

/-- Settles O50: a step keeps a recorded fault or takes a block reset, and the count of block resets tells which. -/
theorem faultStickyUntilBlockReset : Obligations.FaultStickyUntilBlockReset := by
  refine ⟨fun c s => rfl, fun s t hstep => ?_, fun s t hstep hdraw => ?_, fun s t hreset => ?_⟩
  · exact (step_keepsFault_or_blockReset hstep).imp_left State.KeepsFault.draw
  · obtain ⟨-, hfault, hcause⟩ | htakes := step_keepsFault_or_blockReset hstep
    · exact ⟨hfault, hcause⟩
    · exact absurd (htakes.draw.symm.trans hdraw) (Nat.succ_ne_self _)
  · obtain rfl := Host.Outcome.next.inj hreset
    exact ⟨rfl, rfl, rfl⟩

end Sys2Proof.Machine
end

section
/-! PROOFS. The family 70_reset_and_hazards: the block reset at any time, an accepted command's completion and its
frames, a FLUSH to a controller in the extended set, and that a truthful step never faults (R270, R271, R281, R290, R291). -/

namespace Sys2Proof.Machine

/-! ## The block reset -/

/-- A block reset adds marks to the wire but no frame (R271, R272). -/
theorem framesOf_trace_blockReset (s : State) : framesOf s.blockReset.trace = framesOf s.trace := by
  simp only [State.trace, State.blockReset_heard, State.blockReset_pending, framesOf_append]
  cases s.pins.sceN <;> simp [framesOf]

theorem Status.word_reset : Status.reset.word = 0#32 := by decide

/-- Settles O16: the framebuffer is unwritten, the wire gains marks alone, and the rest is the record's own. -/
theorem blockResetAtAnyTime : Obligations.BlockResetAtAnyTime := fun s =>
  ⟨s.blockReset, rfl, Status.word_reset, rfl, rfl, State.fbRead_of_fb_nil s.blockReset_fb, rfl, rfl, rfl, rfl, rfl,
    rfl, rfl, framesOf_trace_blockReset s, rfl, rfl, rfl, rfl, rfl⟩

/-! ## An accepted command completes -/

/-- An action of a command's body leaves CUR. -/
theorem Action.run_cur {stores : Bool} {a : Action} (h : a.inBody stores = true) (u : State) :
    (a.run u).cur = u.cur := by
  cases a with
  | op m =>
    cases m
    case seqAt | store => rfl
    all_goals cases h
  | emit m b => rfl
  | resetPulse => rfl

theorem commandBody_cur (i : Instr) (s u : State) : (runActions (commandBody i s) u).cur = u.cur :=
  runActions_keeps (P := fun t => t.cur = u.cur) rfl fun _ ha t ht => (Action.run_cur (mem_commandBody ha) t).trans ht

/-- CUR keeps the word of a command that has ended (R28; log 28). -/
theorem runActions_scriptOf_cur {i : Instr} (hi : i.isHost = true) (s : State) :
    (runActions (scriptOf i s) s).cur = hostWord i := by
  rw [runActions_scriptOf hi]
  exact (Finish.run_cur _ _).trans (commandBody_cur i s _)

/-- A command ends with BUSY = 0 (R23, R291). -/
theorem runActions_scriptOf_busy {i : Instr} (hi : i.isHost = true) (s : State) :
    (runActions (scriptOf i s) s).status.busy = false := by
  rw [runActions_scriptOf hi]
  rfl

/-- A script records no fault (R240). -/
theorem runActions_fault (as : List Action) (s : State) :
    (runActions as s).status.fault = s.status.fault ∧ (runActions as s).status.cause = s.status.cause := by
  rw [← microsRefineTransactions]
  exact runMicros_fault _ s

/-- An accepted command answers the state its script ends in (R11). -/
theorem exec_eq_script {i : Instr} {s : State} (h : accepts i s = true) :
    exec i s = .next (runActions (scriptOf i s) s) := by
  rw [exec_host (isHost_of_accepts h), if_pos h]

/-- Settles O29, field by field at the end of the command's script. -/
theorem acceptedCommandCompletes : Obligations.AcceptedCommandCompletes := by
  intro s i h
  have hi := isHost_of_accepts h
  obtain ⟨hfault, hcause⟩ := runActions_fault (scriptOf i s) s
  exact ⟨_, exec_eq_script h, runActions_scriptOf_busy hi s, init_runActions_scriptOf h, hfault, hcause,
    runActions_scriptOf_cur hi s⟩

/-! ## The frames of a command -/

/-- An accepted command adds the frames of its events to the frame list. -/
theorem exec_adds_frames {i : Instr} {s : State} {n : Nat} (h : accepts i s = true)
    (hn : (framesOf (commandEvents i s)).length = n) :
    ∃ t, exec i s = .next t ∧ (framesOf t.trace).length = (framesOf s.trace).length + n :=
  ⟨_, exec_eq_script h, by
    rw [trace_runActions_scriptOf (isHost_of_accepts h), framesOf_append, List.length_append, hn]⟩

/-- An accepted command without events leaves the wire. -/
theorem exec_keeps_trace {i : Instr} {s : State} (h : accepts i s = true) (hn : commandEvents i s = []) :
    ∃ t, exec i s = .next t ∧ t.trace = s.trace :=
  ⟨_, exec_eq_script h, by rw [trace_runActions_scriptOf (isHost_of_accepts h), hn, List.append_nil]⟩

theorem length_framesOf_flushEvents (s : State) : (framesOf s.flushEvents).length = 506 := by
  simp [framesOf_flushEvents]

theorem commandEvents_clear (s : State) : commandEvents .clear s = [] := by
  simp [commandEvents, commandBody, Action.events]

theorem commandEvents_setpx (c : Color) (x y : Int) (s : State) : commandEvents (.setpx c x y) s = [] := by
  simp only [commandEvents, commandBody]
  split <;> rfl

/-- Settles O46, command by command: the frames in its body are counted. -/
theorem commandFrameCounts : Obligations.CommandFrameCounts := fun s hinit =>
  ⟨fun c => exec_adds_frames (i := .init c) rfl rfl,
    fun m v => exec_adds_frames (i := .send m v) hinit rfl,
    fun c b => exec_adds_frames (i := .setaddr c b) hinit rfl,
    fun v => exec_adds_frames (i := .write v) hinit rfl,
    ⟨s.afterFlush, exec_flush hinit, by
      rw [State.trace_afterFlush, framesOf_append, List.length_append, length_framesOf_flushEvents]⟩,
    exec_keeps_trace (i := .clear) hinit (commandEvents_clear s),
    fun c x y => exec_keeps_trace (i := .setpx c x y) hinit (commandEvents_setpx c x y s),
    fun x y => exec_keeps_trace (i := .getpx x y) hinit rfl⟩

/-! ## A FLUSH to a controller left in the extended set -/

/-- In the extended set the X-address byte of FLUSH is the contrast 0 (R209, R281). -/
theorem Lcd.event_flushX_extended {r : LcdRegs} (hv : r.v = false) (hh : r.h = true) :
    (Lcd.known r).event (.frame .cmd 0x80#8) = .known { r with vop := 0#7 } :=
  Lcd.frame_vopByte hv hh 0#7

/-- In the extended set the Y-address byte of FLUSH has no meaning (R213, R281). -/
theorem Lcd.event_flushY_extended {r : LcdRegs} (hh : r.h = true) :
    (Lcd.known r).event (.frame .cmd 0x40#8) = .undef :=
  Lcd.frame_of_rejected (e := .noPattern) (by rw [decodeFrame_cmd, if_pos hh]; decide)

/-- A whole FLUSH leaves a controller in the extended set UNDEF (R281). -/
theorem foldl_event_flushEvents_extended (s : State) {r : LcdRegs} (hv : r.v = false) (hh : r.h = true) :
    s.flushEvents.foldl Lcd.event (.known r) = .undef := by
  have hdata := foldl_event_frames_undef ((List.range 504).map fun k => (Mode.data, s.fbRead k))
  rw [List.map_map] at hdata
  rw [State.flushEvents, List.foldl_cons, List.foldl_cons, Lcd.event_flushX_extended hv hh,
    Lcd.event_flushY_extended (r := { r with vop := 0#7 }) hh]
  exact hdata

/-- Settles O42: the first frame is the contrast, the second has no meaning, and the data frames do not leave UNDEF. -/
theorem flushInExtendedSetLosesPanel : Obligations.FlushInExtendedSetLosesPanel := by
  intro s r hinit hr hh hv
  refine ⟨?_, s.afterFlush, exec_flush hinit, ?_⟩
  · rw [observe_append, hr]
    exact Lcd.event_flushX_extended hv hh
  · rw [State.trace_afterFlush, observe_append, hr, foldl_event_flushEvents_extended s hv hh]

/-! ## A truthful step never faults -/

/-- Every word is answered by a next state, a legal one or not (R240, R243). -/
theorem exists_accept_next (w : Word) (s : State) : ∃ t, accept w s = .next t := by
  unfold accept
  split
  next => exact ⟨_, rfl⟩
  next i _ =>
    split
    next => exact ⟨_, rfl⟩
    next => exact exec_next i s

theorem accept_ne_fault (w : Word) (s : State) (f : Fault) : accept w s ≠ .fault f := by
  obtain ⟨t, ht⟩ := exists_accept_next w s
  rw [ht]
  exact nofun

/-- A host write of a register never stops the machine with a fault. -/
theorem State.writeReg_ne_fault (off : Nat) (v : Word) (s : State) (f : Fault) : s.writeReg off v ≠ .fault f := by
  unfold State.writeReg
  split_ifs
  · exact nofun
  · exact accept_ne_fault v s f
  · exact nofun

/-- An outside action is answered or refused. -/
theorem perform_ne_fault (a : Act) (s : State) (f : Fault) : perform a s ≠ .fault f := by
  cases a with
  | blockReset => exact nofun
  | access acc =>
    cases acc with
    | read addr bits =>
      cases hoff : windowOffset s.par.base addr bits with
      | error r => simp [perform_read_refused hoff]
      | ok off => simp [perform, hoff]
    | write addr bits v =>
      cases hoff : windowOffset s.par.base addr bits with
      | error r => simp [perform_write_refused v hoff]
      | ok off => simpa [perform, hoff] using State.writeReg_ne_fault off v s f

/-- A command in progress goes on, by what falls inside it: nothing, something now, or something later (R61, R291). -/
theorem advance_ne_fault {s : State} (ht : s.todo ≠ []) (f : Fault) : advance s ≠ .fault f := by
  cases hint : s.interruptAt with
  | none => simp [advance_to_end ht hint]
  | some k =>
    obtain ⟨j, rest, hin⟩ := State.inbox_of_interruptAt hint
    cases k with
    | zero => exact advance_at_interruption ht hint hin ▸ perform_ne_fault _ _ f
    | succ k => simp [advance_to_interruption ht hint hin]

/-- With BUSY = 1 a truthful block has something left to do (R23). -/
theorem State.BusyTrue.todo_ne_nil {s : State} (h : s.BusyTrue) (hb : s.status.busy = true) : s.todo ≠ [] := by
  obtain ⟨hidle, -⟩ | ⟨-, htodo, -⟩ := h
  · exact absurd (hidle.symm.trans hb) Bool.false_ne_true
  · exact htodo

/-- Settles O59, by who moves in the step; only a busy block with nothing left to do could fault. -/
theorem truthfulStepNeverFaults : Obligations.TruthfulStepNeverFaults := by
  intro s h f
  cases hp : s.pending with
  | cons e rest => simp [step, hp, deliver_eq]
  | nil =>
    cases hb : s.status.busy with
    | true => exact step_of_busy hp hb ▸ advance_ne_fault (h.todo_ne_nil hb) f
    | false =>
      cases hh : s.held with
      | some w => exact step_of_held hp hb hh ▸ accept_ne_fault w _ f
      | none =>
        cases hin : s.inbox with
        | cons j rest => exact step_of_input hp hb hh hin ▸ perform_ne_fault _ _ f
        | nil => simp [step, hp, hb, hh, hin]

end Sys2Proof.Machine
end
